-- ==== Sys2Proof/Word.lean ====
section
/-! DEFINITION. The two word types of the machine (00_scope.md R5): a byte of 8 bits, the size of a memory cell,
a port value and a general register, and a word of 16 bits, the size of an address and of IX, IY, SP and pc. -/

namespace Sys2Proof

/-- An 8-bit value: a register, a memory cell, an instruction byte, a port number or a port value (R5). -/
abbrev Byte := BitVec 8

/-- A 16-bit value: an address, a register pair, an index register, SP or pc (R5). -/
abbrev Word := BitVec 16

end Sys2Proof
end

