-- ==== Sys2Proof/Machine/Bits.lean ====
section
/-! DEFINITION. The bit-field, sign-extension and byte-order helpers that decoding and the meanings share. -/

namespace Sys2Proof.Machine

/-- The 16-bit value `hi : lo`, the high byte first (00_scope.md R6, 10_state.md R21, 20_memory.md R52). -/
def word (hi lo : Byte) : Word := hi ++ lo

/-- Bits 15..8 of a 16-bit value: the suffix H of 00_scope.md R7 (`ddH`, `IXH`, `PCH`). -/
def highByte (w : Word) : Byte := w.extractLsb' 8 8

/-- Bits 7..0 of a 16-bit value: the suffix L of 00_scope.md R7 (`ddL`, `IXL`, `PCL`). -/
def lowByte (w : Word) : Byte := w.extractLsb' 0 8

/-- `sext_16(d)` of 00_scope.md R7: the displacement read as a two's-complement number (30_encoding.md R89).
UNVERIFIED (G10): unsafe for d ≥ 80h if the hardware reads d unsigned; log 19. -/
def sext16 (d : Byte) : Word := d.signExtend 16

/-- Bit 7 of a byte, its sign (42_alu8.md R171). -/
def bit7 (v : Byte) : Bool := v.getLsbD 7

/-- Bit 0 of a byte. -/
def bit0 (v : Byte) : Bool := v.getLsbD 0

/-- A flag as the number 0 or 1 that the pseudocode adds (00_scope.md R6). -/
def bitVal (c : Bool) : Nat := if c then 1 else 0

/-- The low decimal digit of a byte, `v[3:0]`. -/
def lowDigit (v : Byte) : BitVec 4 := v.extractLsb' 0 4

/-- The high decimal digit of a byte, `v[7:4]`. -/
def highDigit (v : Byte) : BitVec 4 := v.extractLsb' 4 4

/-- The byte with the two given digits, the high one first. -/
def digits (hi lo : BitVec 4) : Byte := hi ++ lo

/-- An operation byte from its three groups `xx yyy zzz` = bits 7..6, 5..3, 2..0 (30_encoding.md R81). -/
def opByte (x : BitVec 2) (y z : BitVec 3) : Byte := x ++ y ++ z

/-- An operation byte with a pair code in bits 5..4 and a fixed bit 3 (30_encoding.md R83). -/
def opPair (x p : BitVec 2) (q : BitVec 1) (z : BitVec 3) : Byte := x ++ p ++ q ++ z

/-- Group xx of an operation byte: bits 7..6 (30_encoding.md R81). -/
def groupX (op : Byte) : BitVec 2 := op.extractLsb' 6 2

/-- Group yyy of an operation byte: bits 5..3 (30_encoding.md R81). -/
def groupY (op : Byte) : BitVec 3 := op.extractLsb' 3 3

/-- Group zzz of an operation byte: bits 2..0 (30_encoding.md R81). -/
def groupZ (op : Byte) : BitVec 3 := op.extractLsb' 0 3

/-- The pair field of an operation byte: bits 5..4 (30_encoding.md R83). -/
def pairField (op : Byte) : BitVec 2 := op.extractLsb' 4 2

/-- Bit 3 of an operation byte, which beside a pair code tells two rows apart (30_encoding.md R83). -/
def bit3 (op : Byte) : Bool := op.getLsbD 3

end Sys2Proof.Machine
end

