-- ==== Sys2Proof/Config.lean ====
section
/-! DEFINITION. What is fixed for the machine: the spec's named parameters with their defaults, the values this model
names where the spec leaves a reset value open, and the free values, which have no body. -/

namespace Sys2Proof.Config

/-- `RESET_PC`, the address of the first instruction after reset (70_reset_and_hazards.md R451).
UNVERIFIED: the spec's decision D1, safe as far as the spec goes, unsafe against the hardware; log 4. -/
def resetPc : Word := 0x0000

/-- The default of the open parameter `INT_VECTOR` (00_scope.md R5, 60_exceptions.md R406); the value in force is
the platform's. UNVERIFIED: the spec's default; safe, since it is a field of State; log 10. -/
def defaultIntVector : Word := 0x0038

/-- Every 8-bit register right after reset. The spec says "unspecified" (10_state.md R35).
DESIGN CHOICE, unsafe: a proof about a run from reset may lean on it; log 1. -/
def resetByte : Byte := 0x00

/-- IX, IY and SP right after reset. The spec says "unspecified" (10_state.md R35).
DESIGN CHOICE, unsafe: a proof about a run from reset may lean on it; log 3. -/
def resetWord : Word := 0x0000

/-- Every flag right after reset. The spec says "unspecified" (10_state.md R35).
DESIGN CHOICE, unsafe: a proof about a run from reset may lean on it; log 2. -/
def resetFlag : Bool := false

/-- What a memory byte reads as while nothing lists it: RAM at power-up, which the spec leaves unspecified
(93_implementation_defined.md U7). DESIGN CHOICE, unsafe: a proof may lean on it; log 5. -/
def powerUpByte : Byte := 0x00

/-- `any1()` of 00_scope.md R7: the `n`-th bit the spec does not determine. It has no body, so nothing can be proved
of any value of it, and each evaluation of `any1()` asks for another `n`. A free value, safe; log 6. -/
opaque any1 : Nat → Bool

/-- `IoIn(port, k)` of 20_memory.md R61 where the platform lists no answer: what the `k`-th port read of the run
returns when it reads `port`. It has no body. A free value, safe; log 7. -/
opaque ioIn : Byte → Nat → Byte

end Sys2Proof.Config
end

