-- ==== Sys2Proof/Machine/State.lean ====
section
/-! DEFINITION. The state of the machine as plain data (10_state.md), the platform's open parameters (00_scope.md R5)
with it, the two faults that end a run, the one refusal, and the state right after reset. -/

namespace Sys2Proof.Machine

/-- The seven 8-bit general registers (10_state.md R20). -/
structure Regs where
  a : Byte
  b : Byte
  c : Byte
  d : Byte
  e : Byte
  h : Byte
  l : Byte
  deriving DecidableEq, Repr

/-- The six flags (10_state.md R22): S, Z, H, P/V, N and C. -/
structure Flags where
  sf : Bool
  zf : Bool
  hf : Bool
  pf : Bool
  nf : Bool
  cf : Bool
  deriving DecidableEq, Repr

/-- What `MemMap` says an address holds (20_memory.md R51, 92_eei_decisions.md D11). -/
inductive RegionKind where
  | ram
  | rom
  | unmapped
  | device
  deriving DecidableEq, Repr

/-- The addresses `first` to `last`, both included, hold `kind`. -/
structure Region where
  first : Word
  last : Word
  kind : RegionKind
  deriving DecidableEq, Repr

/-- One value of `IoIn(port, index)` (20_memory.md R61): what the port read numbered `index` returns if it reads
`port`. -/
structure IoAnswer where
  port : Byte
  index : Nat
  value : Byte
  deriving DecidableEq, Repr

/-- The platform: the open parameters of 00_scope.md R5, which the processor consults and never writes. They are
plain data, so that a statement about every state is a statement about every platform that can be written down;
log 8. -/
structure Platform where
  /-- `MemMap`: the first region that holds an address decides; an address in none is RAM (log 9). -/
  regions : List Region
  /-- `INT_VECTOR` (60_exceptions.md R406). -/
  intVector : Word
  /-- `IntReq(k)` for k = 0, 1, …; false beyond the list (60_exceptions.md R403; log 11). -/
  intReq : List Bool
  /-- Whether reset is asserted at boundary k = 0, 1, …; false beyond the list (70_reset_and_hazards.md R450; log 11). -/
  resetReq : List Bool
  /-- The port reads whose value is known; any other read returns a free value (20_memory.md R61; log 7). -/
  ioIn : List IoAnswer
  /-- The ports for which the platform defines no behaviour (60_exceptions.md R402). -/
  deadPorts : List Byte
  deriving DecidableEq, Repr

/-- Memory: the bytes that differ from what an unlisted address reads as, by address (20_memory.md R50). The canonical
form is Memory.wf of Machine/Memory.lean. -/
abbrev Memory := List Host.Cell

/-- The whole machine. -/
structure State where
  /-- A, B, C, D, E, H, L (10_state.md R20). -/
  regs : Regs
  /-- S, Z, H, P/V, N, C (10_state.md R22). -/
  flags : Flags
  /-- The index register IX (10_state.md R24). -/
  ix : Word
  /-- The index register IY (10_state.md R24). -/
  iy : Word
  /-- The stack pointer (10_state.md R25). -/
  sp : Word
  /-- The program counter: between instructions, the address of the next instruction's first byte (10_state.md R26). -/
  pc : Word
  /-- The interrupt enable flip-flop IFF (10_state.md R28). -/
  iff : Bool
  /-- The hidden shadow of DI and EI (10_state.md R29). -/
  inhibit : Bool
  /-- The hidden halt state (10_state.md R30). -/
  halted : Bool
  /-- Memory (10_state.md R31). -/
  mem : Memory
  /-- The platform's parameters (00_scope.md R5). -/
  platform : Platform
  /-- `IoOut`: the (port, byte) pairs written so far, oldest first (20_memory.md R61). -/
  ioOut : List (Byte × Byte)
  /-- How many port reads have been made: the k of `IoIn` (20_memory.md R61). -/
  ioReads : Nat
  /-- How many instruction boundaries have passed: the k of `IntReq` (60_exceptions.md R420). -/
  boundary : Nat
  /-- The MODEL's own field: how many times `any1()` has been evaluated (00_scope.md R7; log 6). -/
  draws : Nat
  deriving DecidableEq, Repr

/-- One access of the processor to the platform, which a platform fault records (60_exceptions.md R402). -/
inductive Access where
  /-- Fetch of the instruction byte at an address (20_memory.md R68). -/
  | fetch (addr : Word)
  /-- MemRead of data (20_memory.md R51). -/
  | memRead (addr : Word)
  /-- MemWrite (20_memory.md R51). -/
  | memWrite (addr : Word)
  /-- IoRead (20_memory.md R61). -/
  | ioRead (port : Byte)
  /-- IoWrite (20_memory.md R61). -/
  | ioWrite (port : Byte)
  deriving DecidableEq, Repr

/-- Why a run ends (60_exceptions.md R400): two model-level faults, no event of the hardware. -/
inductive Fault where
  /-- `UndefinedOpcode` (60_exceptions.md R401): the bytes at pc match no row; it records pc and the bytes fetched.
  Raised by the fetch alone; no state changes. Safe: the hardware may go on, nothing is claimed of it. -/
  | undefinedOpcode (pc : Word) (bytes : List Byte)
  /-- `PlatformFault` (60_exceptions.md R402): an access reached an address or port for which the platform defines no
  behaviour. Raised by any access. The state is that before the instruction, but for `mem`, the memory as the fault
  leaves it: earlier byte writes of the same instruction remain. Safe: nothing is claimed of what the hardware reads
  there; log 13. -/
  | platformFault (access : Access) (mem : Memory)
  deriving DecidableEq, Repr

/-- Why an instruction has no meaning. -/
inductive Refusal where
  /-- The instruction has no meaning yet. Raised by no arm of exec: every row is modelled. Safe. -/
  | notModelled (mnemonic : String)
  deriving DecidableEq, Repr

/-- What a meaning answers: a next state, a fault or a refusal. -/
abbrev Result := Host.Outcome State Fault Refusal

/-- The registers right after reset: unspecified by the spec (10_state.md R35); DESIGN CHOICE, unsafe, log 1. -/
def Regs.reset : Regs :=
  { a := Config.resetByte, b := Config.resetByte, c := Config.resetByte, d := Config.resetByte
    e := Config.resetByte, h := Config.resetByte, l := Config.resetByte }

/-- The flags right after reset: unspecified by the spec (10_state.md R35); DESIGN CHOICE, unsafe, log 2. -/
def Flags.reset : Flags :=
  { sf := Config.resetFlag, zf := Config.resetFlag, hf := Config.resetFlag
    pf := Config.resetFlag, nf := Config.resetFlag, cf := Config.resetFlag }

/-- The spec's default platform (00_scope.md R5, 20_memory.md R51): 64 KiB of RAM, `INT_VECTOR` = 0038h, no request,
every port answered. -/
def Platform.default : Platform :=
  { regions := [], intVector := Config.defaultIntVector, intReq := [], resetReq := []
    ioIn := [], deadPorts := [] }

/-- The machine right after reset (10_state.md R35, 70_reset_and_hazards.md R450): pc, IFF, inhibit and halted as the
spec states; the registers at the values logs 1, 2 and 3 name; memory with nothing listed; the default platform; the
counters at 0. -/
def State.reset : State :=
  { regs := .reset, flags := .reset
    ix := Config.resetWord, iy := Config.resetWord, sp := Config.resetWord, pc := Config.resetPc
    iff := false, inhibit := false, halted := false
    mem := [], platform := .default
    ioOut := [], ioReads := 0, boundary := 0, draws := 0 }

end Sys2Proof.Machine
end

