-- ==== Sys2Proof/Machine/Flags.lean ====
section
/-! DEFINITION. The arithmetic of the machine with the flags it sets: pure functions on bytes, words and flags. The
meaning of the flags is the spec's from general knowledge (93_implementation_defined.md G3): UNVERIFIED, log 22. -/

namespace Sys2Proof.Machine

/-! ## Helpers of the spec -/

/-- How many bits of a byte are 1. -/
def oneBits (v : Byte) : Nat :=
  bitVal (v.getLsbD 0) + bitVal (v.getLsbD 1) + bitVal (v.getLsbD 2) + bitVal (v.getLsbD 3)
    + bitVal (v.getLsbD 4) + bitVal (v.getLsbD 5) + bitVal (v.getLsbD 6) + bitVal (v.getLsbD 7)

/-- `parity8(v)`: 1 when the number of 1 bits is even (42_alu8.md R170). -/
def parity8 (v : Byte) : Bool := oneBits v % 2 == 0

/-- A result of 8 bits and the record f of 42_alu8.md R171. -/
structure Arith8 where
  res : Byte
  s : Bool
  z : Bool
  h : Bool
  v : Bool
  c : Bool
  deriving DecidableEq, Repr

/-- A result of 16 bits and the record f of 43_arith16.md R240. -/
structure Arith16 where
  res : Word
  s : Bool
  z : Bool
  h : Bool
  v : Bool
  c : Bool
  deriving DecidableEq, Repr

/-- `add8(a, b, cin)` (42_alu8.md R171). -/
def add8 (a b : Byte) (cin : Bool) : Arith8 :=
  let sum := a.toNat + b.toNat + bitVal cin
  let res := BitVec.ofNat 8 sum
  { res
    s := bit7 res
    z := res == 0
    h := decide (a.toNat % 16 + b.toNat % 16 + bitVal cin > 15)
    v := bit7 a == bit7 b && bit7 res != bit7 a
    c := decide (sum > 255) }

/-- `sub8(a, b, cin)` (42_alu8.md R172): H and C are borrows. -/
def sub8 (a b : Byte) (cin : Bool) : Arith8 :=
  let diff : Int := (a.toNat : Int) - b.toNat - bitVal cin
  let res := BitVec.ofInt 8 diff
  { res
    s := bit7 res
    z := res == 0
    h := decide (((a.toNat % 16 : Nat) : Int) - (b.toNat % 16 : Nat) - bitVal cin < 0)
    v := bit7 a != bit7 b && bit7 res != bit7 a
    c := decide (diff < 0) }

/-- `add16(a, b, cin)` (43_arith16.md R240): H is the carry out of bit 11. -/
def add16 (a b : Word) (cin : Bool) : Arith16 :=
  let sum := a.toNat + b.toNat + bitVal cin
  let res := BitVec.ofNat 16 sum
  { res
    s := res.getLsbD 15
    z := res == 0
    h := decide (a.toNat % 4096 + b.toNat % 4096 + bitVal cin > 4095)
    v := a.getLsbD 15 == b.getLsbD 15 && res.getLsbD 15 != a.getLsbD 15
    c := decide (sum > 65535) }

/-- `sub16(a, b, cin)` (43_arith16.md R241): H is the borrow from bit 12. -/
def sub16 (a b : Word) (cin : Bool) : Arith16 :=
  let diff : Int := (a.toNat : Int) - b.toNat - bitVal cin
  let res := BitVec.ofInt 16 diff
  { res
    s := res.getLsbD 15
    z := res == 0
    h := decide (((a.toNat % 4096 : Nat) : Int) - (b.toNat % 4096 : Nat) - bitVal cin < 0)
    v := a.getLsbD 15 != b.getLsbD 15 && res.getLsbD 15 != a.getLsbD 15
    c := decide (diff < 0) }

/-! ## 8-bit arithmetic and logic: from A, the operand and the flags to the new A and the new flags -/

/-- The flags of an 8-bit addition or subtraction (10_state.md R34): all six, P/V the overflow. -/
def arithFlags (r : Arith8) (n : Bool) : Flags :=
  { sf := r.s, zf := r.z, hf := r.h, pf := r.v, nf := n, cf := r.c }

/-- ADD A,s (42_alu8.md R180). -/
def addA (a v : Byte) (_ : Flags) : Byte × Flags :=
  let r := add8 a v false
  (r.res, arithFlags r false)

/-- ADC A,s (42_alu8.md R185). -/
def adcA (a v : Byte) (f : Flags) : Byte × Flags :=
  let r := add8 a v f.cf
  (r.res, arithFlags r false)

/-- SUB s (42_alu8.md R190). -/
def subA (a v : Byte) (_ : Flags) : Byte × Flags :=
  let r := sub8 a v false
  (r.res, arithFlags r true)

/-- SBC A,s (42_alu8.md R195). -/
def sbcA (a v : Byte) (f : Flags) : Byte × Flags :=
  let r := sub8 a v f.cf
  (r.res, arithFlags r true)

/-- CP s: the flags of SUB, A kept (42_alu8.md R200). -/
def cpA (a v : Byte) (_ : Flags) : Byte × Flags := (a, arithFlags (sub8 a v false) true)

/-- The flags of AND, OR and XOR (42_alu8.md R175): H is 1 for all three, as the source prints (log 26). -/
def logicFlags (res : Byte) : Flags :=
  { sf := bit7 res, zf := res == 0, hf := true, pf := parity8 res, nf := false, cf := false }

/-- AND s (42_alu8.md R205). -/
def andA (a v : Byte) (_ : Flags) : Byte × Flags := (a &&& v, logicFlags (a &&& v))

/-- OR s (42_alu8.md R210). -/
def orA (a v : Byte) (_ : Flags) : Byte × Flags := (a ||| v, logicFlags (a ||| v))

/-- XOR s (42_alu8.md R215). -/
def xorA (a v : Byte) (_ : Flags) : Byte × Flags := (a ^^^ v, logicFlags (a ^^^ v))

/-- INC of a byte: C is not written (42_alu8.md R220). -/
def incByte (v : Byte) (f : Flags) : Byte × Flags :=
  let r := add8 v 1 false
  (r.res, { arithFlags r false with cf := f.cf })

/-- DEC of a byte: C is not written (42_alu8.md R224). -/
def decByte (v : Byte) (f : Flags) : Byte × Flags :=
  let r := sub8 v 1 false
  (r.res, { arithFlags r true with cf := f.cf })

/-- What DAA adds or subtracts (42_alu8.md R228): 06h, 60h, both or neither. -/
def daaCorrection (a : Byte) (f : Flags) : Byte :=
  (if f.hf || decide (9 < (lowDigit a).toNat) then 0x06 else 0x00)
    ||| (if f.cf || decide (0x99 < a.toNat) then 0x60 else 0x00)

/-- DAA (42_alu8.md R228): N is not written, and C is never cleared. UNVERIFIED (G8): unsafe in the H result in
particular; log 24. -/
def daaA (a : Byte) (f : Flags) : Byte × Flags :=
  let res := if f.nf then a - daaCorrection a f else a + daaCorrection a f
  (res,
    { sf := bit7 res
      zf := res == 0
      hf := if f.nf then f.hf && decide ((lowDigit a).toNat < 6) else decide (9 < (lowDigit a).toNat)
      pf := parity8 res
      nf := f.nf
      cf := f.cf || decide (0x99 < a.toNat) })

/-- CPL: H and N are set, the others are not written (42_alu8.md R229). -/
def cplA (a : Byte) (f : Flags) : Byte × Flags := (a ^^^ 0xFF, { f with hf := true, nf := true })

/-- NEG: the subtraction 0 - A (42_alu8.md R230). UNVERIFIED in H, P/V and C (G9); log 25. -/
def negA (a : Byte) (_ : Flags) : Byte × Flags :=
  let r := sub8 0 a false
  (r.res, arithFlags r true)

/-! ## 16-bit arithmetic -/

/-- The flags of ADD HL,ss, ADD IX,pp and ADD IY,rr: H, N and C alone (43_arith16.md R242, R244). -/
def addWordFlags (r : Arith16) (f : Flags) : Flags := { f with hf := r.h, nf := false, cf := r.c }

/-- The flags of ADC HL,ss and SBC HL,ss: all six (43_arith16.md R242, R245, R246). -/
def arithWordFlags (r : Arith16) (n : Bool) : Flags :=
  { sf := r.s, zf := r.z, hf := r.h, pf := r.v, nf := n, cf := r.c }

/-! ## Shifts and rotates: the result and the bit shifted out (47_shift_rotate.md R290; UNVERIFIED, G6, log 23) -/

/-- Rotate left circular: bit 7 to bit 0 and to the carry. -/
def rlc8 (v : Byte) (_ : Bool) : Byte × Bool := (v.extractLsb' 0 7 ++ BitVec.ofBool (bit7 v), bit7 v)

/-- Rotate left through the carry. -/
def rl8 (v : Byte) (cf : Bool) : Byte × Bool := (v.extractLsb' 0 7 ++ BitVec.ofBool cf, bit7 v)

/-- Rotate right circular: bit 0 to bit 7 and to the carry. -/
def rrc8 (v : Byte) (_ : Bool) : Byte × Bool := (BitVec.ofBool (bit0 v) ++ v.extractLsb' 1 7, bit0 v)

/-- Rotate right through the carry. -/
def rr8 (v : Byte) (cf : Bool) : Byte × Bool := (BitVec.ofBool cf ++ v.extractLsb' 1 7, bit0 v)

/-- Shift left arithmetic: 0 into bit 0. -/
def sla8 (v : Byte) (_ : Bool) : Byte × Bool := (v.extractLsb' 0 7 ++ BitVec.ofBool false, bit7 v)

/-- Shift right arithmetic: bit 7 kept. -/
def sra8 (v : Byte) (_ : Bool) : Byte × Bool := (BitVec.ofBool (bit7 v) ++ v.extractLsb' 1 7, bit0 v)

/-- Shift right logical: 0 into bit 7. -/
def srl8 (v : Byte) (_ : Bool) : Byte × Bool := (BitVec.ofBool false ++ v.extractLsb' 1 7, bit0 v)

/-- RLCA, RLA, RRCA, RRA: only H, N and C are written (47_shift_rotate.md R291). -/
def rotateA (shift : Byte → Bool → Byte × Bool) (a : Byte) (f : Flags) : Byte × Flags :=
  let r := shift a f.cf
  (r.1, { f with hf := false, nf := false, cf := r.2 })

/-- RLC, RL, RRC, RR, SLA, SRA, SRL: all six flags, P/V the parity (47_shift_rotate.md R291). -/
def shiftByte (shift : Byte → Bool → Byte × Bool) (v : Byte) (f : Flags) : Byte × Flags :=
  let r := shift v f.cf
  (r.1, { sf := bit7 r.1, zf := r.1 == 0, hf := false, pf := parity8 r.1, nf := false, cf := r.2 })

/-- The flags of RLD, RRD and IN r,(C): all but C, from one byte (47_shift_rotate.md R291, 49_io.md R362). -/
def byteFlags (v : Byte) (f : Flags) : Flags :=
  { sf := bit7 v, zf := v == 0, hf := false, pf := parity8 v, nf := false, cf := f.cf }

/-! ## Decimal digits: from the byte at HL and A to the new byte and the new A (UNVERIFIED, G7, log 23) -/

/-- RLD: the three digits A low, byte high, byte low rotate left (47_shift_rotate.md R314). -/
def rldDigits (t a : Byte) : Byte × Byte :=
  (digits (lowDigit t) (lowDigit a), digits (highDigit a) (highDigit t))

/-- RRD: the three digits A low, byte high, byte low rotate right (47_shift_rotate.md R315). -/
def rrdDigits (t a : Byte) : Byte × Byte :=
  (digits (lowDigit a) (highDigit t), digits (highDigit a) (lowDigit t))

/-! ## Bits (48_bit.md R340) -/

/-- The byte with only bit b set, `1 << b`. -/
def bitMask (b : BitVec 3) : Byte := 1 <<< b.toNat

/-- BIT b: Z is the complement of the bit, H = 1, N = 0, S and P/V take undetermined bits, C is kept
(48_bit.md R341; 90_conflicts.md C6). -/
def bitFlags (v : Byte) (b : BitVec 3) (freeS freeP : Bool) (f : Flags) : Flags :=
  { sf := freeS, zf := !v.getLsbD b.toNat, hf := true, pf := freeP, nf := false, cf := f.cf }

/-- SET b: no flag is written (48_bit.md R345). -/
def setBit (b : BitVec 3) (v : Byte) (f : Flags) : Byte × Flags := (v ||| bitMask b, f)

/-- RES b: no flag is written (48_bit.md R349). -/
def resBit (b : BitVec 3) (v : Byte) (f : Flags) : Byte × Flags := (v &&& ~~~bitMask b, f)

/-! ## The flag byte F (10_state.md R23; UNVERIFIED, G1, log 20) -/

/-- F with the given bits 5 and 3, which are not state. -/
def flagByte (f : Flags) (five three : Bool) : Byte :=
  BitVec.ofBool f.sf ++ BitVec.ofBool f.zf ++ BitVec.ofBool five ++ BitVec.ofBool f.hf
    ++ BitVec.ofBool three ++ BitVec.ofBool f.pf ++ BitVec.ofBool f.nf ++ BitVec.ofBool f.cf

/-- The flags a byte F stands for; bits 5 and 3 are ignored (92_eei_decisions.md D7). -/
def flagsOfByte (v : Byte) : Flags :=
  { sf := v.getLsbD 7, zf := v.getLsbD 6, hf := v.getLsbD 4
    pf := v.getLsbD 2, nf := v.getLsbD 1, cf := v.getLsbD 0 }

end Sys2Proof.Machine
end

