-- ==== Sys2Proof/Machine/Memory.lean ====
section
/-! DEFINITION. Memory as a list of (address, byte) pairs in one canonical form, and what `MemMap` says of an address. -/

namespace Sys2Proof.Machine

/-- The byte at address `a` (20_memory.md R51). An address with no entry reads as Config.powerUpByte (log 5). -/
def Memory.read (m : Memory) (a : Word) : Byte :=
  match m with
  | [] => Config.powerUpByte
  | cell :: rest => if cell.1 = a.toNat then cell.2 else Memory.read rest a

/-- The memory without an entry for `key`. -/
def Memory.erase (m : Memory) (key : Nat) : Memory :=
  match m with
  | [] => []
  | cell :: rest => if cell.1 = key then Memory.erase rest key else cell :: Memory.erase rest key

/-- The entry put before the first entry of a higher address. -/
def Memory.insert (m : Memory) (key : Nat) (v : Byte) : Memory :=
  match m with
  | [] => [(key, v)]
  | cell :: rest => if key < cell.1 then (key, v) :: cell :: rest else cell :: Memory.insert rest key v

/-- The memory after the byte at address `a` becomes `v` (20_memory.md R51). Writing what an unlisted address reads as
removes the entry, so that equal memories are equal lists. -/
def Memory.write (m : Memory) (a : Word) (v : Byte) : Memory :=
  if v = Config.powerUpByte then m.erase a.toNat else (m.erase a.toNat).insert a.toNat v

/-- Every entry's address lies in the 16-bit address space and above `low`, addresses rise strictly, and no entry
holds what an unlisted address reads as. -/
def Memory.wfAbove (low : Nat) (m : Memory) : Bool :=
  match m with
  | [] => true
  | cell :: rest =>
    decide (low ≤ cell.1) && decide (cell.1 < 65536) && decide (cell.2 ≠ Config.powerUpByte)
      && Memory.wfAbove (cell.1 + 1) rest

/-- The canonical form of memory. -/
def Memory.wf (m : Memory) : Bool := m.wfAbove 0

/-- The region holds the address. -/
def Region.covers (r : Region) (a : Word) : Bool := decide (r.first ≤ a) && decide (a ≤ r.last)

/-- What the first region of a list that holds the address says of it; RAM where none does (20_memory.md R51). -/
def kindIn (regions : List Region) (a : Word) : RegionKind :=
  match regions with
  | [] => .ram
  | r :: rest => if r.covers a then r.kind else kindIn rest a

/-- `MemMap(a)` (20_memory.md R62). -/
def State.kindAt (s : State) (a : Word) : RegionKind := kindIn s.platform.regions a

/-- The platform defines accesses to the address: it is RAM or ROM. For an unmapped address, and for a device, of
which this model has no description, an access is the platform fault (20_memory.md R51, 60_exceptions.md R402;
log 15). -/
def State.canAccess (s : State) (a : Word) : Bool :=
  match s.kindAt a with
  | .ram => true
  | .rom => true
  | .unmapped => false
  | .device => false

/-- The byte memory holds at an address. -/
def State.peek (s : State) (a : Word) : Byte := s.mem.read a

/-- The state after a byte is stored where the platform defines it: RAM takes the byte, ROM ignores it
(20_memory.md R51). -/
def State.poke (s : State) (a : Word) (v : Byte) : State :=
  match s.kindAt a with
  | .ram => { s with mem := s.mem.write a v }
  | .rom => s
  | .unmapped => s
  | .device => s

/-- `count` bytes from address `a` upward, mod 2^16 (20_memory.md R55). -/
def State.peekBytes (s : State) (a : Word) : Nat → List Byte
  | 0 => []
  | count + 1 => s.peek a :: s.peekBytes (a + 1) count

end Sys2Proof.Machine
end

