-- ==== Sys2Proof/Machine/Ops.lean ====
section
/-! DEFINITION. The shared operations: memory and port accesses in the order a meaning makes them, the stack, the end of
an instruction, `any1()`, the entry of an interrupt and the return from one, reset. An operation that can stop takes
what follows it as its last argument. -/

namespace Sys2Proof.Machine

/-! ## Memory accesses -/

/-- `MemRead(a, 1)` of data (20_memory.md R51, 60_exceptions.md R402). -/
def State.load (s : State) (a : Word) (andThen : Byte → Result) : Result :=
  if s.canAccess a then andThen (s.peek a) else .fault (.platformFault (.memRead a) s.mem)

/-- `MemWrite(a, 1, v)` (20_memory.md R51, 60_exceptions.md R402). -/
def State.store (s : State) (a : Word) (v : Byte) (andThen : State → Result) : Result :=
  if s.canAccess a then andThen (s.poke a v) else .fault (.platformFault (.memWrite a) s.mem)

/-- The 16-bit value at `a`: low byte first, then the byte at a + 1 mod 2^16 (20_memory.md R52, 41_load16.md R140). -/
def State.load16 (s : State) (a : Word) (andThen : Word → Result) : Result :=
  s.load a fun lo => s.load (a + 1) fun hi => andThen (word hi lo)

/-- Stores a 16-bit value at `a`: low byte first, then the high byte at a + 1 mod 2^16 (20_memory.md R52, 41_load16.md
R140). The order is the spec's decision D15: UNVERIFIED, log 32. -/
def State.store16 (s : State) (a w : Word) (andThen : State → Result) : Result :=
  s.store a (lowByte w) fun s => s.store (a + 1) (highByte w) andThen

/-! ## The stack (20_memory.md R59) -/

/-- Pushes a 16-bit value: SP - 1, the high byte, SP - 1, the low byte. -/
def State.push (s : State) (w : Word) (andThen : State → Result) : Result :=
  let s := { s with sp := s.sp - 1 }
  s.store s.sp (highByte w) fun s =>
    let s := { s with sp := s.sp - 1 }
    s.store s.sp (lowByte w) andThen

/-- Pops a 16-bit value: the low byte, SP + 1, the high byte, SP + 1. -/
def State.pop (s : State) (andThen : Word → State → Result) : Result :=
  s.load s.sp fun lo =>
    let s := { s with sp := s.sp + 1 }
    s.load s.sp fun hi => andThen (word hi lo) { s with sp := s.sp + 1 }

/-! ## Ports (20_memory.md R61) -/

/-- `IoIn(port, k)` for the read that comes next: the platform's answer, else the free value (log 7). -/
def State.portValue (s : State) (port : Byte) : Byte :=
  match s.platform.ioIn.find? fun answer => answer.port == port && answer.index == s.ioReads with
  | some answer => answer.value
  | none => Config.ioIn port s.ioReads

/-- The platform defines accesses to the port (60_exceptions.md R402). -/
def State.canUsePort (s : State) (port : Byte) : Bool := !s.platform.deadPorts.contains port

/-- `IoRead(port)`: one port read, which the run counts. -/
def State.input (s : State) (port : Byte) (andThen : Byte → State → Result) : Result :=
  if s.canUsePort port then andThen (s.portValue port) { s with ioReads := s.ioReads + 1 }
  else .fault (.platformFault (.ioRead port) s.mem)

/-- `IoWrite(port, v)`: the pair goes to the end of the output trace. -/
def State.output (s : State) (port v : Byte) (andThen : State → Result) : Result :=
  if s.canUsePort port then andThen { s with ioOut := s.ioOut ++ [(port, v)] }
  else .fault (.platformFault (.ioWrite port) s.mem)

/-! ## The undetermined bit -/

/-- `any1()` (00_scope.md R7, 92_eei_decisions.md D22): a fresh free bit. -/
def State.anyBit (s : State) (andThen : Bool → State → Result) : Result :=
  andThen (Config.any1 s.draws) { s with draws := s.draws + 1 }

/-! ## The end of an instruction -/

/-- The end of an instruction of `len` bytes that does not transfer control: pc moves past it and inhibit is cleared
(10_state.md R27, R29). -/
def State.retire (s : State) (len : Word) : State := { s with pc := s.pc + len, inhibit := false }

/-- The end of an instruction that transfers control (10_state.md R27, R29). -/
def State.jumpTo (s : State) (target : Word) : State := { s with pc := target, inhibit := false }

/-- The end of DI and EI: as State.retire, but inhibit is set (10_state.md R29, 44_cpu_control.md R264, R265). -/
def State.retireInhibited (s : State) (len : Word) : State := { s with pc := s.pc + len, inhibit := true }

/-- An instruction of `len` bytes that only advances pc. -/
def State.finish (s : State) (len : Word) : Result := .next (s.retire len)

/-! ## Interrupts and reset -/

/-- `IntReq(k)` at the boundary the machine stands at (60_exceptions.md R403). -/
def State.interruptRequested (s : State) : Bool := s.platform.intReq.getD s.boundary false

/-- The interrupt is accepted at this boundary: requested, IFF = 1 and inhibit = 0 (60_exceptions.md R405). -/
def State.interruptAccepted (s : State) : Bool := s.iff && !s.inhibit && s.interruptRequested

/-- TAKING THE INTERRUPT (60_exceptions.md R406): halted, IFF and inhibit are cleared, pc is pushed high byte first, and
pc becomes `INT_VECTOR`. Nothing else is saved. UNVERIFIED: the spec's decisions D3, D4; log 28. -/
def State.interruptEntry (s : State) : Result :=
  { s with halted := false, iff := false, inhibit := false }.push s.pc fun s =>
    .next { s with pc := s.platform.intVector }

/-- RETURNING (46_call_return.md R283, 60_exceptions.md R407): pc is popped, nothing else is restored. It ends RET, a
taken RET cc, and with RET an interrupt handler. -/
def State.returnFromCall (s : State) : Result := s.pop fun target s => .next (s.jumpTo target)

/-- Reset is asserted at this boundary (70_reset_and_hazards.md R450). -/
def State.resetRequested (s : State) : Bool := s.platform.resetReq.getD s.boundary false

/-- What reset does to a running machine (70_reset_and_hazards.md R450): pc, IFF, inhibit and halted as 10_state.md R35
says; the registers, unspecified by the spec, take the values logs 1 to 3 name (DESIGN CHOICE, unsafe, log 12); memory
stays. -/
def State.applyReset (s : State) : State :=
  { s with
    regs := .reset, flags := .reset
    ix := Config.resetWord, iy := Config.resetWord, sp := Config.resetWord, pc := Config.resetPc
    iff := false, inhibit := false, halted := false }

/-- The passing of one boundary: the next one has the next k (60_exceptions.md R420). -/
def State.tick (s : State) : State := { s with boundary := s.boundary + 1 }

end Sys2Proof.Machine
end

