-- ==== Sys2Proof/Syntax.lean ====
section
/-! DEFINITION. The instructions: one constructor per row of opcode_table.json, in the table's order, with typed
operands. Operand types follow 30_encoding.md R82 to R89. -/

namespace Sys2Proof

/-- Operand `r` or `r'`: one of the seven 8-bit registers (30_encoding.md R82). -/
inductive Reg8 where
  | b | c | d | e | h | l | a
  deriving DecidableEq, Repr

/-- Operand `dd` or `ss`: BC, DE, HL or SP (30_encoding.md R83). -/
inductive RegDD where
  | bc | de | hl | sp
  deriving DecidableEq, Repr

/-- Operand `qq` of PUSH and POP: BC, DE, HL or AF (30_encoding.md R83). -/
inductive RegQQ where
  | bc | de | hl | af
  deriving DecidableEq, Repr

/-- Operand `pp` of ADD IX,pp: BC, DE, IX or SP (30_encoding.md R83). -/
inductive RegPP where
  | bc | de | ix | sp
  deriving DecidableEq, Repr

/-- Operand `rr` of ADD IY,rr: BC, DE, IY or SP (30_encoding.md R83). -/
inductive RegRR where
  | bc | de | iy | sp
  deriving DecidableEq, Repr

/-- Operand `cc`: a condition (30_encoding.md R84): NZ, Z, NC, C, PO, PE, P, M. -/
inductive Cond where
  | nz | z | nc | c | po | pe | p | m
  deriving DecidableEq, Repr

/-- Operand `b` of BIT, SET and RES: a bit number, three bits of the encoding (30_encoding.md R85). -/
abbrev BitIndex := BitVec 3

/-- The instructions of the DMC8: the 167 rows of the source (00_scope.md R3). `n` is an immediate byte or a port
number, `d` a displacement byte, `nn` a 16-bit immediate or address, `p` the address of a restart. -/
inductive Instr where
  -- 40_load8.md
  /-- `LD r, r'` (R121). -/
  | ldRegReg (r : Reg8) (r' : Reg8)
  /-- `LD r, n` (R122). -/
  | ldRegImm (r : Reg8) (n : Byte)
  /-- `LD r, (HL)` (R123). -/
  | ldRegHL (r : Reg8)
  /-- `LD r, (IX + d)` (R124). -/
  | ldRegIX (r : Reg8) (d : Byte)
  /-- `LD r, (IY + d)` (R125). -/
  | ldRegIY (r : Reg8) (d : Byte)
  /-- `LD (HL), r` (R126). -/
  | ldHLReg (r : Reg8)
  /-- `LD (IX + d), r` (R127). -/
  | ldIXReg (d : Byte) (r : Reg8)
  /-- `LD (IY + d), r` (R128). -/
  | ldIYReg (d : Byte) (r : Reg8)
  /-- `LD (HL), n` (R129). -/
  | ldHLImm (n : Byte)
  /-- `LD (IX + d), n` (R130). -/
  | ldIXImm (d : Byte) (n : Byte)
  /-- `LD (IY + d), n` (R131). -/
  | ldIYImm (d : Byte) (n : Byte)
  /-- `LD A, (BC)` (R132). -/
  | ldABC
  /-- `LD A, (DE)` (R133). -/
  | ldADE
  /-- `LD A, (nn)` (R134). -/
  | ldAMem (nn : Word)
  /-- `LD (BC), A` (R135). -/
  | ldBCA
  /-- `LD (DE), A` (R136). -/
  | ldDEA
  /-- `LD (nn), A` (R137). -/
  | ldMemA (nn : Word)
  -- 41_load16.md
  /-- `LD dd, nn` (R141). -/
  | ldPairImm (dd : RegDD) (nn : Word)
  /-- `LD IX, nn` (R142). -/
  | ldIXImm16 (nn : Word)
  /-- `LD IY, nn` (R143). -/
  | ldIYImm16 (nn : Word)
  /-- `LD HL, (nn)` (R144). -/
  | ldHLMem (nn : Word)
  /-- `LD dd, (nn)` (R145). -/
  | ldPairMem (dd : RegDD) (nn : Word)
  /-- `LD IX, (nn)` (R146). -/
  | ldIXMem (nn : Word)
  /-- `LD IY, (nn)` (R147). -/
  | ldIYMem (nn : Word)
  /-- `LD (nn), HL` (R148). -/
  | ldMemHL (nn : Word)
  /-- `LD (nn), dd` (R149). -/
  | ldMemPair (nn : Word) (dd : RegDD)
  /-- `LD (nn), IX` (R150). -/
  | ldMemIX (nn : Word)
  /-- `LD (nn), IY` (R151). -/
  | ldMemIY (nn : Word)
  /-- `LD SP, HL` (R152). -/
  | ldSPHL
  /-- `LD SP, IX` (R153). -/
  | ldSPIX
  /-- `LD SP, IY` (R154). -/
  | ldSPIY
  /-- `EX DE, HL` (R155). -/
  | exDEHL
  /-- `EX (SP), HL` (R156). -/
  | exSPHL
  /-- `PUSH qq` (R157). -/
  | pushPair (qq : RegQQ)
  /-- `PUSH IX` (R158). -/
  | pushIX
  /-- `PUSH IY` (R159). -/
  | pushIY
  /-- `POP qq` (R160). -/
  | popPair (qq : RegQQ)
  /-- `POP IX` (R161). -/
  | popIX
  /-- `POP IY` (R162). -/
  | popIY
  -- 42_alu8.md
  /-- `ADD A, r` (R180). -/
  | addAReg (r : Reg8)
  /-- `ADD A, n` (R181). -/
  | addAImm (n : Byte)
  /-- `ADD A, (HL)` (R182). -/
  | addAHL
  /-- `ADD A, (IX + d)` (R183). -/
  | addAIX (d : Byte)
  /-- `ADD A, (IY + d)` (R184). -/
  | addAIY (d : Byte)
  /-- `ADC A, r` (R185). -/
  | adcAReg (r : Reg8)
  /-- `ADC A, n` (R186). -/
  | adcAImm (n : Byte)
  /-- `ADC A, (HL)` (R187). -/
  | adcAHL
  /-- `ADC A, (IX + d)` (R188). -/
  | adcAIX (d : Byte)
  /-- `ADC A, (IY + d)` (R189). -/
  | adcAIY (d : Byte)
  /-- `SUB r` (R190). -/
  | subAReg (r : Reg8)
  /-- `SUB n` (R191). -/
  | subAImm (n : Byte)
  /-- `SUB (HL)` (R192). -/
  | subAHL
  /-- `SUB (IX + d)` (R193). -/
  | subAIX (d : Byte)
  /-- `SUB (IY + d)` (R194). -/
  | subAIY (d : Byte)
  /-- `SBC A, r` (R195). -/
  | sbcAReg (r : Reg8)
  /-- `SBC A, n` (R196). -/
  | sbcAImm (n : Byte)
  /-- `SBC A, (HL)` (R197). -/
  | sbcAHL
  /-- `SBC A, (IX + d)` (R198). -/
  | sbcAIX (d : Byte)
  /-- `SBC A, (IY + d)` (R199). -/
  | sbcAIY (d : Byte)
  /-- `CP r` (R200). -/
  | cpAReg (r : Reg8)
  /-- `CP n` (R201). -/
  | cpAImm (n : Byte)
  /-- `CP (HL)` (R202). -/
  | cpAHL
  /-- `CP (IX + d)` (R203). -/
  | cpAIX (d : Byte)
  /-- `CP (IY + d)` (R204). -/
  | cpAIY (d : Byte)
  /-- `AND r` (R205). -/
  | andAReg (r : Reg8)
  /-- `AND n` (R206). -/
  | andAImm (n : Byte)
  /-- `AND (HL)` (R207). -/
  | andAHL
  /-- `AND (IX + d)` (R208). -/
  | andAIX (d : Byte)
  /-- `AND (IY + d)` (R209). -/
  | andAIY (d : Byte)
  /-- `OR r` (R210). -/
  | orAReg (r : Reg8)
  /-- `OR n` (R211). -/
  | orAImm (n : Byte)
  /-- `OR (HL)` (R212). -/
  | orAHL
  /-- `OR (IX + d)` (R213). -/
  | orAIX (d : Byte)
  /-- `OR (IY + d)` (R214). -/
  | orAIY (d : Byte)
  /-- `XOR r` (R215). -/
  | xorAReg (r : Reg8)
  /-- `XOR n` (R216). -/
  | xorAImm (n : Byte)
  /-- `XOR (HL)` (R217). -/
  | xorAHL
  /-- `XOR (IX + d)` (R218). -/
  | xorAIX (d : Byte)
  /-- `XOR (IY + d)` (R219). -/
  | xorAIY (d : Byte)
  /-- `INC r` (R220). -/
  | incReg (r : Reg8)
  /-- `INC (HL)` (R221). -/
  | incHL
  /-- `INC (IX + d)` (R222). -/
  | incIX (d : Byte)
  /-- `INC (IY + d)` (R223). -/
  | incIY (d : Byte)
  /-- `DEC r` (R224). -/
  | decReg (r : Reg8)
  /-- `DEC (HL)` (R225). -/
  | decHL
  /-- `DEC (IX + d)` (R226). -/
  | decIX (d : Byte)
  /-- `DEC (IY + d)` (R227). -/
  | decIY (d : Byte)
  /-- `DAA` (R228). -/
  | daa
  /-- `CPL` (R229). -/
  | cpl
  /-- `NEG` (R230). -/
  | neg
  -- 43_arith16.md
  /-- `ADD HL, ss` (R244). -/
  | addHLPair (ss : RegDD)
  /-- `ADC HL, ss` (R245). -/
  | adcHLPair (ss : RegDD)
  /-- `SBC HL, ss` (R246). -/
  | sbcHLPair (ss : RegDD)
  /-- `ADD IX, pp` (R247). -/
  | addIXPair (pp : RegPP)
  /-- `ADD IY, rr` (R248). -/
  | addIYPair (rr : RegRR)
  /-- `INC ss` (R249). -/
  | incPair (ss : RegDD)
  /-- `INC IX` (R250). -/
  | incIX16
  /-- `INC IY` (R251). -/
  | incIY16
  /-- `DEC ss` (R252). -/
  | decPair (ss : RegDD)
  /-- `DEC IX` (R253). -/
  | decIX16
  /-- `DEC IY` (R254). -/
  | decIY16
  -- 44_cpu_control.md
  /-- `CCF` (R260). -/
  | ccf
  /-- `SCF` (R261). -/
  | scf
  /-- `NOP` (R262). -/
  | nop
  /-- `HALT` (R263). -/
  | halt
  /-- `DI` (R264). -/
  | di
  /-- `EI` (R265). -/
  | ei
  -- 45_jump.md
  /-- `JP nn` (R271). -/
  | jp (nn : Word)
  /-- `JP cc, nn` (R272). -/
  | jpCond (cc : Cond) (nn : Word)
  /-- `JP (HL)` (R273). -/
  | jpHL
  /-- `JP (IX)` (R274). -/
  | jpIX
  /-- `JP (IY)` (R275). -/
  | jpIY
  -- 46_call_return.md
  /-- `CALL nn` (R281). -/
  | call (nn : Word)
  /-- `CALL cc, nn` (R282). -/
  | callCond (cc : Cond) (nn : Word)
  /-- `RET` (R283). -/
  | ret
  /-- `RET cc` (R284). -/
  | retCond (cc : Cond)
  /-- `RST p` (R285). -/
  | rst (p : Word)
  -- 47_shift_rotate.md
  /-- `RLCA` (R294). -/
  | rlca
  /-- `RLA` (R295). -/
  | rla
  /-- `RRCA` (R296). -/
  | rrca
  /-- `RRA` (R297). -/
  | rra
  /-- `RLC r` (R298). -/
  | rlcReg (r : Reg8)
  /-- `RLC (HL)` (R299). -/
  | rlcHL
  /-- `RLC (IX + d)` (R300). -/
  | rlcIX (d : Byte)
  /-- `RLC (IY + d)` (R301). -/
  | rlcIY (d : Byte)
  /-- `RL r` (R302). -/
  | rlReg (r : Reg8)
  /-- `RL (HL)` (R303). -/
  | rlHL
  /-- `RL (IX + d)` (R304). -/
  | rlIX (d : Byte)
  /-- `RL (IY + d)` (R305). -/
  | rlIY (d : Byte)
  /-- `RRC r` (R306). -/
  | rrcReg (r : Reg8)
  /-- `RRC (HL)` (R307). -/
  | rrcHL
  /-- `RRC (IX + d)` (R308). -/
  | rrcIX (d : Byte)
  /-- `RRC (IY + d)` (R309). -/
  | rrcIY (d : Byte)
  /-- `RR r` (R310). -/
  | rrReg (r : Reg8)
  /-- `RR (HL)` (R311). -/
  | rrHL
  /-- `RR (IX + d)` (R312). -/
  | rrIX (d : Byte)
  /-- `RR (IY + d)` (R313). -/
  | rrIY (d : Byte)
  /-- `RLD` (R314). -/
  | rld
  /-- `RRD` (R315). -/
  | rrd
  /-- `SLA r` (R316). -/
  | slaReg (r : Reg8)
  /-- `SLA (HL)` (R317). -/
  | slaHL
  /-- `SLA (IX + d)` (R318). -/
  | slaIX (d : Byte)
  /-- `SLA (IY + d)` (R319). -/
  | slaIY (d : Byte)
  /-- `SRA r` (R320). -/
  | sraReg (r : Reg8)
  /-- `SRA (HL)` (R321). -/
  | sraHL
  /-- `SRA (IX + d)` (R322). -/
  | sraIX (d : Byte)
  /-- `SRA (IY + d)` (R323). -/
  | sraIY (d : Byte)
  /-- `SRL r` (R324). -/
  | srlReg (r : Reg8)
  /-- `SRL (HL)` (R325). -/
  | srlHL
  /-- `SRL (IX + d)` (R326). -/
  | srlIX (d : Byte)
  /-- `SRL (IY + d)` (R327). -/
  | srlIY (d : Byte)
  -- 48_bit.md
  /-- `BIT b, r` (R341). -/
  | bitReg (b : BitIndex) (r : Reg8)
  /-- `BIT b, (HL)` (R342). -/
  | bitHL (b : BitIndex)
  /-- `BIT b, (IX + d)` (R343). -/
  | bitIX (b : BitIndex) (d : Byte)
  /-- `BIT b, (IY + d)` (R344). -/
  | bitIY (b : BitIndex) (d : Byte)
  /-- `SET b, r` (R345). -/
  | setReg (b : BitIndex) (r : Reg8)
  /-- `SET b, (HL)` (R346). -/
  | setHL (b : BitIndex)
  /-- `SET b, (IX + d)` (R347). -/
  | setIX (b : BitIndex) (d : Byte)
  /-- `SET b, (IY + d)` (R348). -/
  | setIY (b : BitIndex) (d : Byte)
  /-- `RES b, r` (R349). -/
  | resReg (b : BitIndex) (r : Reg8)
  /-- `RES b, (HL)` (R350). -/
  | resHL (b : BitIndex)
  /-- `RES b, (IX + d)` (R351). -/
  | resIX (b : BitIndex) (d : Byte)
  /-- `RES b, (IY + d)` (R352). -/
  | resIY (b : BitIndex) (d : Byte)
  -- 49_io.md
  /-- `IN A, (n)` (R361). -/
  | inAImm (n : Byte)
  /-- `IN r, (C)` (R362). -/
  | inRegC (r : Reg8)
  /-- `OUT (n), A` (R363). -/
  | outImmA (n : Byte)
  /-- `OUT (C), r` (R364). -/
  | outCReg (r : Reg8)
  deriving DecidableEq, Repr

end Sys2Proof
end

