-- ==== Sys2Proof/Machine/Operands.lean ====
section
/-! DEFINITION. The operand forms (20_memory.md R57), registers by name and by pair, conditions, and the shapes most
instructions share: move a byte, combine a byte with A, read-modify-write a byte, move a 16-bit value. -/

namespace Sys2Proof.Machine

/-! ## Registers -/

/-- `x[r]` read (00_scope.md R7, 30_encoding.md R82). -/
def State.reg8 (s : State) : Reg8 → Byte
  | .b => s.regs.b
  | .c => s.regs.c
  | .d => s.regs.d
  | .e => s.regs.e
  | .h => s.regs.h
  | .l => s.regs.l
  | .a => s.regs.a

/-- `x[r] <- v` (00_scope.md R7). -/
def State.setReg8 (s : State) (r : Reg8) (v : Byte) : State :=
  match r with
  | .b => { s with regs := { s.regs with b := v } }
  | .c => { s with regs := { s.regs with c := v } }
  | .d => { s with regs := { s.regs with d := v } }
  | .e => { s with regs := { s.regs with e := v } }
  | .h => { s with regs := { s.regs with h := v } }
  | .l => { s with regs := { s.regs with l := v } }
  | .a => { s with regs := { s.regs with a := v } }

/-- `A <- v`. -/
def State.setA (s : State) (v : Byte) : State := { s with regs := { s.regs with a := v } }

/-- The flags replaced. -/
def State.setFlags (s : State) (f : Flags) : State := { s with flags := f }

/-- The 16-bit registers and the pairs that are views of two registers, AF apart (10_state.md R21, R24, R25). -/
inductive Reg16 where
  | bc | de | hl | sp | ix | iy
  deriving DecidableEq, Repr

/-- A 16-bit register or pair read: the first letter's register is the high byte (10_state.md R21; G2, log 21). -/
def State.reg16 (s : State) : Reg16 → Word
  | .bc => word s.regs.b s.regs.c
  | .de => word s.regs.d s.regs.e
  | .hl => word s.regs.h s.regs.l
  | .sp => s.sp
  | .ix => s.ix
  | .iy => s.iy

/-- A 16-bit register or pair written: a pair's two registers both change (10_state.md R21). -/
def State.setReg16 (s : State) (r : Reg16) (w : Word) : State :=
  match r with
  | .bc => { s with regs := { s.regs with b := highByte w, c := lowByte w } }
  | .de => { s with regs := { s.regs with d := highByte w, e := lowByte w } }
  | .hl => { s with regs := { s.regs with h := highByte w, l := lowByte w } }
  | .sp => { s with sp := w }
  | .ix => { s with ix := w }
  | .iy => { s with iy := w }

/-- The register a dd or ss operand names (30_encoding.md R83). -/
def ofDD : RegDD → Reg16
  | .bc => .bc
  | .de => .de
  | .hl => .hl
  | .sp => .sp

/-- The register a pp operand names: its third code is IX (30_encoding.md R83). -/
def ofPP : RegPP → Reg16
  | .bc => .bc
  | .de => .de
  | .ix => .ix
  | .sp => .sp

/-- The register an rr operand names: its third code is IY (30_encoding.md R83). -/
def ofRR : RegRR → Reg16
  | .bc => .bc
  | .de => .de
  | .iy => .iy
  | .sp => .sp

/-- The value a qq operand names, for PUSH: of AF the high byte is A and the low byte is F with bits 5 and 3
undetermined, bit 5 drawn first (10_state.md R23, 41_load16.md R157; log 6). -/
def State.readQQ (s : State) (qq : RegQQ) (andThen : Word → State → Result) : Result :=
  match qq with
  | .bc => andThen (s.reg16 .bc) s
  | .de => andThen (s.reg16 .de) s
  | .hl => andThen (s.reg16 .hl) s
  | .af => s.anyBit fun five s => s.anyBit fun three s =>
      andThen (word s.regs.a (flagByte s.flags five three)) s

/-- The pair a qq operand names written, for POP: of AF, A takes the high byte and the six flags the low byte
(10_state.md R23, 41_load16.md R160). -/
def State.writeQQ (s : State) (qq : RegQQ) (w : Word) : State :=
  match qq with
  | .bc => s.setReg16 .bc w
  | .de => s.setReg16 .de w
  | .hl => s.setReg16 .hl w
  | .af => (s.setA (highByte w)).setFlags (flagsOfByte (lowByte w))

/-- `cond(cc)` (45_jump.md R270). -/
def Flags.holds (f : Flags) : Cond → Bool
  | .nz => !f.zf
  | .z => f.zf
  | .nc => !f.cf
  | .c => f.cf
  | .po => !f.pf
  | .pe => f.pf
  | .p => !f.sf
  | .m => f.sf

/-! ## Operand forms -/

/-- The memory operands of one byte (20_memory.md R57). -/
inductive MemOperand where
  | atBC
  | atDE
  | atHL
  | atAddr (nn : Word)
  | atIX (d : Byte)
  | atIY (d : Byte)
  deriving DecidableEq, Repr

/-- The effective address of a memory operand (20_memory.md R57, R58). No register changes. -/
def State.address (s : State) : MemOperand → Word
  | .atBC => s.reg16 .bc
  | .atDE => s.reg16 .de
  | .atHL => s.reg16 .hl
  | .atAddr nn => nn
  | .atIX d => s.ix + sext16 d
  | .atIY d => s.iy + sext16 d

/-- Where a byte is read and written back: a register or a memory operand. -/
inductive Place where
  | reg (r : Reg8)
  | mem (m : MemOperand)
  deriving DecidableEq, Repr

/-- Where a byte is read: a place or an immediate (30_encoding.md R87). -/
inductive Source where
  | place (p : Place)
  | imm (n : Byte)
  deriving DecidableEq, Repr

/-- Reads the byte of a place. -/
def State.readPlace (s : State) (p : Place) (andThen : Byte → Result) : Result :=
  match p with
  | .reg r => andThen (s.reg8 r)
  | .mem m => s.load (s.address m) andThen

/-- Writes the byte of a place; a memory operand's address is formed from the registers as they stand. -/
def State.writePlace (s : State) (p : Place) (v : Byte) (andThen : State → Result) : Result :=
  match p with
  | .reg r => andThen (s.setReg8 r v)
  | .mem m => s.store (s.address m) v andThen

/-- Reads the byte of a source. -/
def State.readSource (s : State) (src : Source) (andThen : Byte → Result) : Result :=
  match src with
  | .place p => s.readPlace p andThen
  | .imm n => andThen n

/-! ## The shapes instructions share; `len` is the instruction's length in bytes -/

/-- An 8-bit load: `dst ← src` (40_load8.md R120). -/
def moveByte (dst : Place) (src : Source) (len : Word) (s : State) : Result :=
  s.readSource src fun v => s.writePlace dst v fun s => s.finish len

/-- An operation on A and a byte that sets A and the flags (42_alu8.md R173). -/
def combineA (op : Byte → Byte → Flags → Byte × Flags) (src : Source) (len : Word) (s : State) : Result :=
  s.readSource src fun v =>
    let r := op s.regs.a v s.flags
    ((s.setA r.1).setFlags r.2).finish len

/-- An operation on A alone that sets A and the flags. -/
def changeA (op : Byte → Flags → Byte × Flags) (len : Word) (s : State) : Result :=
  let r := op s.regs.a s.flags
  ((s.setA r.1).setFlags r.2).finish len

/-- A read-modify-write of one byte that sets the flags: one read, then one write of the same place
(20_memory.md R56). -/
def modifyByte (op : Byte → Flags → Byte × Flags) (p : Place) (len : Word) (s : State) : Result :=
  s.readPlace p fun v =>
    let r := op v s.flags
    s.writePlace p r.1 fun s => (s.setFlags r.2).finish len

/-- BIT: a byte is read and only flags are written, two of them undetermined, S drawn first (48_bit.md R341; log 6). -/
def testBit (b : BitIndex) (p : Place) (len : Word) (s : State) : Result :=
  s.readPlace p fun v => s.anyBit fun freeS s => s.anyBit fun freeP s =>
    (s.setFlags (bitFlags v b freeS freeP s.flags)).finish len

/-- A 16-bit register takes a value. -/
def assign16 (dst : Reg16) (w : Word) (len : Word) (s : State) : Result := (s.setReg16 dst w).finish len

/-- A 16-bit load from memory (41_load16.md R140). -/
def loadReg16 (dst : Reg16) (nn : Word) (len : Word) (s : State) : Result :=
  s.load16 nn fun w => assign16 dst w len s

/-- A 16-bit store to memory (41_load16.md R140). -/
def storeReg16 (nn : Word) (src : Reg16) (len : Word) (s : State) : Result :=
  s.store16 nn (s.reg16 src) fun s => s.finish len

/-- A push of a 16-bit register that is no pair with flags (41_load16.md R158). -/
def pushReg16 (src : Reg16) (len : Word) (s : State) : Result :=
  s.push (s.reg16 src) fun s => s.finish len

/-- A pop into a 16-bit register that is no pair with flags (41_load16.md R161). -/
def popReg16 (dst : Reg16) (len : Word) (s : State) : Result :=
  s.pop fun w s => assign16 dst w len s

/-- ADD of 16 bits: H, N and C are written (43_arith16.md R244). -/
def addReg16 (dst src : Reg16) (len : Word) (s : State) : Result :=
  let r := add16 (s.reg16 dst) (s.reg16 src) false
  ((s.setReg16 dst r.res).setFlags (addWordFlags r s.flags)).finish len

/-- The taken part of CALL and RST: the address after the instruction is pushed, pc takes the target
(46_call_return.md R280, R281, R285; log 33). -/
def callTo (target : Word) (len : Word) (s : State) : Result :=
  s.push (s.pc + len) fun s => .next (s.jumpTo target)

/-- A rotation of decimal digits between A and the byte at HL (47_shift_rotate.md R314, R315): one read, one write,
the flags those of the new A. `op` gives the new byte and the new A. -/
def rotateDigits (op : Byte → Byte → Byte × Byte) (s : State) : Result :=
  s.readPlace (.mem .atHL) fun t =>
    let r := op t s.regs.a
    s.writePlace (.mem .atHL) r.1 fun s =>
      ((s.setA r.2).setFlags (byteFlags r.2 s.flags)).finish 2

end Sys2Proof.Machine
end

