-- ==== Sys2Proof/Machine/Alu8.lean ====
section
/-! DEFINITION. The 8-bit arithmetic and logic (42_alu8.md). One meaning per row, in the table's order. -/

namespace Sys2Proof.Machine

/-- `ADD A, r` (42_alu8.md R180). -/
def execAddAReg (r : Reg8) (s : State) : Result := combineA addA (.place (.reg r)) 1 s

/-- `ADD A, n` (42_alu8.md R181). -/
def execAddAImm (n : Byte) (s : State) : Result := combineA addA (.imm n) 2 s

/-- `ADD A, (HL)` (42_alu8.md R182). -/
def execAddAHL (s : State) : Result := combineA addA (.place (.mem .atHL)) 1 s

/-- `ADD A, (IX + d)` (42_alu8.md R183). -/
def execAddAIX (d : Byte) (s : State) : Result := combineA addA (.place (.mem (.atIX d))) 3 s

/-- `ADD A, (IY + d)` (42_alu8.md R184). -/
def execAddAIY (d : Byte) (s : State) : Result := combineA addA (.place (.mem (.atIY d))) 3 s

/-- `ADC A, r` (42_alu8.md R185). -/
def execAdcAReg (r : Reg8) (s : State) : Result := combineA adcA (.place (.reg r)) 1 s

/-- `ADC A, n` (42_alu8.md R186). -/
def execAdcAImm (n : Byte) (s : State) : Result := combineA adcA (.imm n) 2 s

/-- `ADC A, (HL)` (42_alu8.md R187). -/
def execAdcAHL (s : State) : Result := combineA adcA (.place (.mem .atHL)) 1 s

/-- `ADC A, (IX + d)` (42_alu8.md R188). -/
def execAdcAIX (d : Byte) (s : State) : Result := combineA adcA (.place (.mem (.atIX d))) 3 s

/-- `ADC A, (IY + d)` (42_alu8.md R189). -/
def execAdcAIY (d : Byte) (s : State) : Result := combineA adcA (.place (.mem (.atIY d))) 3 s

/-- `SUB r` (42_alu8.md R190). -/
def execSubAReg (r : Reg8) (s : State) : Result := combineA subA (.place (.reg r)) 1 s

/-- `SUB n` (42_alu8.md R191). -/
def execSubAImm (n : Byte) (s : State) : Result := combineA subA (.imm n) 2 s

/-- `SUB (HL)` (42_alu8.md R192). -/
def execSubAHL (s : State) : Result := combineA subA (.place (.mem .atHL)) 1 s

/-- `SUB (IX + d)` (42_alu8.md R193). -/
def execSubAIX (d : Byte) (s : State) : Result := combineA subA (.place (.mem (.atIX d))) 3 s

/-- `SUB (IY + d)` (42_alu8.md R194). -/
def execSubAIY (d : Byte) (s : State) : Result := combineA subA (.place (.mem (.atIY d))) 3 s

/-- `SBC A, r` (42_alu8.md R195). -/
def execSbcAReg (r : Reg8) (s : State) : Result := combineA sbcA (.place (.reg r)) 1 s

/-- `SBC A, n` (42_alu8.md R196). -/
def execSbcAImm (n : Byte) (s : State) : Result := combineA sbcA (.imm n) 2 s

/-- `SBC A, (HL)` (42_alu8.md R197). -/
def execSbcAHL (s : State) : Result := combineA sbcA (.place (.mem .atHL)) 1 s

/-- `SBC A, (IX + d)` (42_alu8.md R198). -/
def execSbcAIX (d : Byte) (s : State) : Result := combineA sbcA (.place (.mem (.atIX d))) 3 s

/-- `SBC A, (IY + d)` (42_alu8.md R199). -/
def execSbcAIY (d : Byte) (s : State) : Result := combineA sbcA (.place (.mem (.atIY d))) 3 s

/-- `CP r` (42_alu8.md R200). -/
def execCpAReg (r : Reg8) (s : State) : Result := combineA cpA (.place (.reg r)) 1 s

/-- `CP n` (42_alu8.md R201). -/
def execCpAImm (n : Byte) (s : State) : Result := combineA cpA (.imm n) 2 s

/-- `CP (HL)` (42_alu8.md R202). -/
def execCpAHL (s : State) : Result := combineA cpA (.place (.mem .atHL)) 1 s

/-- `CP (IX + d)` (42_alu8.md R203). -/
def execCpAIX (d : Byte) (s : State) : Result := combineA cpA (.place (.mem (.atIX d))) 3 s

/-- `CP (IY + d)` (42_alu8.md R204). -/
def execCpAIY (d : Byte) (s : State) : Result := combineA cpA (.place (.mem (.atIY d))) 3 s

/-- `AND r` (42_alu8.md R205). -/
def execAndAReg (r : Reg8) (s : State) : Result := combineA andA (.place (.reg r)) 1 s

/-- `AND n` (42_alu8.md R206). -/
def execAndAImm (n : Byte) (s : State) : Result := combineA andA (.imm n) 2 s

/-- `AND (HL)` (42_alu8.md R207). -/
def execAndAHL (s : State) : Result := combineA andA (.place (.mem .atHL)) 1 s

/-- `AND (IX + d)` (42_alu8.md R208). -/
def execAndAIX (d : Byte) (s : State) : Result := combineA andA (.place (.mem (.atIX d))) 3 s

/-- `AND (IY + d)` (42_alu8.md R209). -/
def execAndAIY (d : Byte) (s : State) : Result := combineA andA (.place (.mem (.atIY d))) 3 s

/-- `OR r` (42_alu8.md R210). -/
def execOrAReg (r : Reg8) (s : State) : Result := combineA orA (.place (.reg r)) 1 s

/-- `OR n` (42_alu8.md R211). -/
def execOrAImm (n : Byte) (s : State) : Result := combineA orA (.imm n) 2 s

/-- `OR (HL)` (42_alu8.md R212). -/
def execOrAHL (s : State) : Result := combineA orA (.place (.mem .atHL)) 1 s

/-- `OR (IX + d)` (42_alu8.md R213). -/
def execOrAIX (d : Byte) (s : State) : Result := combineA orA (.place (.mem (.atIX d))) 3 s

/-- `OR (IY + d)` (42_alu8.md R214). -/
def execOrAIY (d : Byte) (s : State) : Result := combineA orA (.place (.mem (.atIY d))) 3 s

/-- `XOR r` (42_alu8.md R215). -/
def execXorAReg (r : Reg8) (s : State) : Result := combineA xorA (.place (.reg r)) 1 s

/-- `XOR n` (42_alu8.md R216). -/
def execXorAImm (n : Byte) (s : State) : Result := combineA xorA (.imm n) 2 s

/-- `XOR (HL)` (42_alu8.md R217). -/
def execXorAHL (s : State) : Result := combineA xorA (.place (.mem .atHL)) 1 s

/-- `XOR (IX + d)` (42_alu8.md R218). -/
def execXorAIX (d : Byte) (s : State) : Result := combineA xorA (.place (.mem (.atIX d))) 3 s

/-- `XOR (IY + d)` (42_alu8.md R219). -/
def execXorAIY (d : Byte) (s : State) : Result := combineA xorA (.place (.mem (.atIY d))) 3 s

/-- `INC r` (42_alu8.md R220). -/
def execIncReg (r : Reg8) (s : State) : Result := modifyByte incByte (.reg r) 1 s

/-- `INC (HL)` (42_alu8.md R221). -/
def execIncHL (s : State) : Result := modifyByte incByte (.mem .atHL) 1 s

/-- `INC (IX + d)` (42_alu8.md R222). -/
def execIncIX (d : Byte) (s : State) : Result := modifyByte incByte (.mem (.atIX d)) 3 s

/-- `INC (IY + d)` (42_alu8.md R223). -/
def execIncIY (d : Byte) (s : State) : Result := modifyByte incByte (.mem (.atIY d)) 3 s

/-- `DEC r` (42_alu8.md R224). -/
def execDecReg (r : Reg8) (s : State) : Result := modifyByte decByte (.reg r) 1 s

/-- `DEC (HL)` (42_alu8.md R225). -/
def execDecHL (s : State) : Result := modifyByte decByte (.mem .atHL) 1 s

/-- `DEC (IX + d)` (42_alu8.md R226). -/
def execDecIX (d : Byte) (s : State) : Result := modifyByte decByte (.mem (.atIX d)) 3 s

/-- `DEC (IY + d)` (42_alu8.md R227). -/
def execDecIY (d : Byte) (s : State) : Result := modifyByte decByte (.mem (.atIY d)) 3 s

/-- `DAA` (42_alu8.md R228). UNVERIFIED (G8): unsafe; log 24. -/
def execDaa (s : State) : Result := changeA daaA 1 s

/-- `CPL` (42_alu8.md R229). -/
def execCpl (s : State) : Result := changeA cplA 1 s

/-- `NEG` (42_alu8.md R230). UNVERIFIED in H, P/V and C (G9): unsafe; log 25. -/
def execNeg (s : State) : Result := changeA negA 2 s

end Sys2Proof.Machine
end

