-- ==== Sys2Proof/Machine/Arith16.lean ====
section
/-! DEFINITION. The 16-bit arithmetic (43_arith16.md); INC and DEC of 16 bits write no flag (R242). One meaning per row, in the table's order. -/

namespace Sys2Proof.Machine

/-- `ADD HL, ss` (43_arith16.md R244). -/
def execAddHLPair (ss : RegDD) (s : State) : Result := addReg16 .hl (ofDD ss) 1 s

/-- `ADC HL, ss` (43_arith16.md R245). -/
def execAdcHLPair (ss : RegDD) (s : State) : Result :=
  let r := add16 (s.reg16 .hl) (s.reg16 (ofDD ss)) s.flags.cf
  ((s.setReg16 .hl r.res).setFlags (arithWordFlags r false)).finish 2

/-- `SBC HL, ss` (43_arith16.md R246). -/
def execSbcHLPair (ss : RegDD) (s : State) : Result :=
  let r := sub16 (s.reg16 .hl) (s.reg16 (ofDD ss)) s.flags.cf
  ((s.setReg16 .hl r.res).setFlags (arithWordFlags r true)).finish 2

/-- `ADD IX, pp` (43_arith16.md R247). -/
def execAddIXPair (pp : RegPP) (s : State) : Result := addReg16 .ix (ofPP pp) 2 s

/-- `ADD IY, rr` (43_arith16.md R248). -/
def execAddIYPair (rr : RegRR) (s : State) : Result := addReg16 .iy (ofRR rr) 2 s

/-- `INC ss` (43_arith16.md R249). -/
def execIncPair (ss : RegDD) (s : State) : Result := assign16 (ofDD ss) (s.reg16 (ofDD ss) + 1) 1 s

/-- `INC IX` (43_arith16.md R250). -/
def execIncIX16 (s : State) : Result := assign16 .ix (s.reg16 .ix + 1) 2 s

/-- `INC IY` (43_arith16.md R251). -/
def execIncIY16 (s : State) : Result := assign16 .iy (s.reg16 .iy + 1) 2 s

/-- `DEC ss` (43_arith16.md R252). -/
def execDecPair (ss : RegDD) (s : State) : Result := assign16 (ofDD ss) (s.reg16 (ofDD ss) - 1) 1 s

/-- `DEC IX` (43_arith16.md R253). -/
def execDecIX16 (s : State) : Result := assign16 .ix (s.reg16 .ix - 1) 2 s

/-- `DEC IY` (43_arith16.md R254). -/
def execDecIY16 (s : State) : Result := assign16 .iy (s.reg16 .iy - 1) 2 s

end Sys2Proof.Machine
end

