-- ==== Sys2Proof/Machine/BitOps.lean ====
section
/-! DEFINITION. The bit instructions (48_bit.md): SET and RES write no flag, BIT writes nothing but flags (R340). One meaning per row, in the table's order. -/

namespace Sys2Proof.Machine

/-- `BIT b, r` (48_bit.md R341). -/
def execBitReg (b : BitIndex) (r : Reg8) (s : State) : Result := testBit b (.reg r) 2 s

/-- `BIT b, (HL)` (48_bit.md R342). -/
def execBitHL (b : BitIndex) (s : State) : Result := testBit b (.mem .atHL) 2 s

/-- `BIT b, (IX + d)` (48_bit.md R343). -/
def execBitIX (b : BitIndex) (d : Byte) (s : State) : Result := testBit b (.mem (.atIX d)) 4 s

/-- `BIT b, (IY + d)` (48_bit.md R344). -/
def execBitIY (b : BitIndex) (d : Byte) (s : State) : Result := testBit b (.mem (.atIY d)) 4 s

/-- `SET b, r` (48_bit.md R345). -/
def execSetReg (b : BitIndex) (r : Reg8) (s : State) : Result := modifyByte (setBit b) (.reg r) 2 s

/-- `SET b, (HL)` (48_bit.md R346). -/
def execSetHL (b : BitIndex) (s : State) : Result := modifyByte (setBit b) (.mem .atHL) 2 s

/-- `SET b, (IX + d)` (48_bit.md R347). -/
def execSetIX (b : BitIndex) (d : Byte) (s : State) : Result := modifyByte (setBit b) (.mem (.atIX d)) 4 s

/-- `SET b, (IY + d)` (48_bit.md R348). -/
def execSetIY (b : BitIndex) (d : Byte) (s : State) : Result := modifyByte (setBit b) (.mem (.atIY d)) 4 s

/-- `RES b, r` (48_bit.md R349). -/
def execResReg (b : BitIndex) (r : Reg8) (s : State) : Result := modifyByte (resBit b) (.reg r) 2 s

/-- `RES b, (HL)` (48_bit.md R350). -/
def execResHL (b : BitIndex) (s : State) : Result := modifyByte (resBit b) (.mem .atHL) 2 s

/-- `RES b, (IX + d)` (48_bit.md R351). -/
def execResIX (b : BitIndex) (d : Byte) (s : State) : Result := modifyByte (resBit b) (.mem (.atIX d)) 4 s

/-- `RES b, (IY + d)` (48_bit.md R352). -/
def execResIY (b : BitIndex) (d : Byte) (s : State) : Result := modifyByte (resBit b) (.mem (.atIY d)) 4 s

end Sys2Proof.Machine
end

