-- ==== Sys2Proof/Machine/CallReturn.lean ====
section
/-! DEFINITION. The calls and returns (46_call_return.md): none writes a flag. One meaning per row, in the table's order. -/

namespace Sys2Proof.Machine

/-- `CALL nn` (46_call_return.md R281). -/
def execCall (nn : Word) (s : State) : Result := callTo nn 3 s

/-- `CALL cc, nn` (46_call_return.md R282). Not taken, it touches no stack byte. -/
def execCallCond (cc : Cond) (nn : Word) (s : State) : Result :=
  if s.flags.holds cc then callTo nn 3 s else s.finish 3

/-- `RET` (46_call_return.md R283). It is also the return from an interrupt handler (60_exceptions.md R407). -/
def execRet (s : State) : Result := s.returnFromCall

/-- `RET cc` (46_call_return.md R284). Not taken, it touches no stack byte. -/
def execRetCond (cc : Cond) (s : State) : Result := if s.flags.holds cc then s.returnFromCall else s.finish 1

/-- `RST p` (46_call_return.md R285). `p` is one of the eight of 30_encoding.md R86 in every decoded instruction (log 38). -/
def execRst (p : Word) (s : State) : Result := callTo p 1 s

end Sys2Proof.Machine
end

