-- ==== Sys2Proof/Machine/CpuControl.lean ====
section
/-! DEFINITION. The CPU control instructions (44_cpu_control.md). One meaning per row, in the table's order. -/

namespace Sys2Proof.Machine

/-- `CCF` (44_cpu_control.md R260). H takes an undetermined bit (U1, log 6). -/
def execCcf (s : State) : Result :=
  s.anyBit fun freeH s =>
    (s.setFlags { s.flags with hf := freeH, nf := false, cf := !s.flags.cf }).finish 1

/-- `SCF` (44_cpu_control.md R261). -/
def execScf (s : State) : Result :=
  (s.setFlags { s.flags with hf := false, nf := false, cf := true }).finish 1

/-- `NOP` (44_cpu_control.md R262). -/
def execNop (s : State) : Result := s.finish 1

/-- `HALT` (44_cpu_control.md R263). pc is past it when the processor stops (decision D9: UNVERIFIED, log 30). -/
def execHalt (s : State) : Result := .next { s.retire 1 with halted := true }

/-- `DI` (44_cpu_control.md R264). It begins the one-instruction shadow (log 29). -/
def execDi (s : State) : Result := .next { s.retireInhibited 1 with iff := false }

/-- `EI` (44_cpu_control.md R265). It begins the one-instruction shadow (log 29). -/
def execEi (s : State) : Result := .next { s.retireInhibited 1 with iff := true }

end Sys2Proof.Machine
end

