-- ==== Sys2Proof/Machine/Io.lean ====
section
/-! DEFINITION. The input and output instructions (49_io.md). Ports are 8 bits wide (decision D12: UNVERIFIED, log 31). One meaning per row, in the table's order. -/

namespace Sys2Proof.Machine

/-- `IN A, (n)` (49_io.md R361). No flag is written. -/
def execInAImm (n : Byte) (s : State) : Result := s.input n fun v s => (s.setA v).finish 2

/-- `IN r, (C)` (49_io.md R362). The port number is the old C; the flags are those of the byte read. -/
def execInRegC (r : Reg8) (s : State) : Result :=
  s.input s.regs.c fun v s => ((s.setReg8 r v).setFlags (byteFlags v s.flags)).finish 2

/-- `OUT (n), A` (49_io.md R363). -/
def execOutImmA (n : Byte) (s : State) : Result := s.output n s.regs.a fun s => s.finish 2

/-- `OUT (C), r` (49_io.md R364). -/
def execOutCReg (r : Reg8) (s : State) : Result := s.output s.regs.c (s.reg8 r) fun s => s.finish 2

end Sys2Proof.Machine
end

