-- ==== Sys2Proof/Machine/Jump.lean ====
section
/-! DEFINITION. The jumps (45_jump.md): none writes a flag. One meaning per row, in the table's order. -/

namespace Sys2Proof.Machine

/-- `JP nn` (45_jump.md R271). -/
def execJp (nn : Word) (s : State) : Result := .next (s.jumpTo nn)

/-- `JP cc, nn` (45_jump.md R272). -/
def execJpCond (cc : Cond) (nn : Word) (s : State) : Result :=
  if s.flags.holds cc then .next (s.jumpTo nn) else s.finish 3

/-- `JP (HL)` (45_jump.md R273). No memory is read. -/
def execJpHL (s : State) : Result := .next (s.jumpTo (s.reg16 .hl))

/-- `JP (IX)` (45_jump.md R274). No memory is read. -/
def execJpIX (s : State) : Result := .next (s.jumpTo (s.reg16 .ix))

/-- `JP (IY)` (45_jump.md R275). No memory is read. -/
def execJpIY (s : State) : Result := .next (s.jumpTo (s.reg16 .iy))

end Sys2Proof.Machine
end

