-- ==== Sys2Proof/Machine/Load16.lean ====
section
/-! DEFINITION. The 16-bit loads, exchanges, PUSH and POP (41_load16.md): no flag but by POP AF (R140). One meaning per row, in the table's order. -/

namespace Sys2Proof.Machine

/-- `LD dd, nn` (41_load16.md R141). -/
def execLdPairImm (dd : RegDD) (nn : Word) (s : State) : Result := assign16 (ofDD dd) nn 3 s

/-- `LD IX, nn` (41_load16.md R142). -/
def execLdIXImm16 (nn : Word) (s : State) : Result := assign16 .ix nn 4 s

/-- `LD IY, nn` (41_load16.md R143). -/
def execLdIYImm16 (nn : Word) (s : State) : Result := assign16 .iy nn 4 s

/-- `LD HL, (nn)` (41_load16.md R144). Low byte first (decision D15, log 32). -/
def execLdHLMem (nn : Word) (s : State) : Result := loadReg16 .hl nn 3 s

/-- `LD dd, (nn)` (41_load16.md R145). -/
def execLdPairMem (dd : RegDD) (nn : Word) (s : State) : Result := loadReg16 (ofDD dd) nn 4 s

/-- `LD IX, (nn)` (41_load16.md R146). -/
def execLdIXMem (nn : Word) (s : State) : Result := loadReg16 .ix nn 4 s

/-- `LD IY, (nn)` (41_load16.md R147). -/
def execLdIYMem (nn : Word) (s : State) : Result := loadReg16 .iy nn 4 s

/-- `LD (nn), HL` (41_load16.md R148). -/
def execLdMemHL (nn : Word) (s : State) : Result := storeReg16 nn .hl 3 s

/-- `LD (nn), dd` (41_load16.md R149). The first byte of its encoding is ED (90_conflicts.md C1, log 27). -/
def execLdMemPair (nn : Word) (dd : RegDD) (s : State) : Result := storeReg16 nn (ofDD dd) 4 s

/-- `LD (nn), IX` (41_load16.md R150). -/
def execLdMemIX (nn : Word) (s : State) : Result := storeReg16 nn .ix 4 s

/-- `LD (nn), IY` (41_load16.md R151). -/
def execLdMemIY (nn : Word) (s : State) : Result := storeReg16 nn .iy 4 s

/-- `LD SP, HL` (41_load16.md R152). -/
def execLdSPHL (s : State) : Result := assign16 .sp (s.reg16 .hl) 1 s

/-- `LD SP, IX` (41_load16.md R153). -/
def execLdSPIX (s : State) : Result := assign16 .sp (s.reg16 .ix) 2 s

/-- `LD SP, IY` (41_load16.md R154). -/
def execLdSPIY (s : State) : Result := assign16 .sp (s.reg16 .iy) 2 s

/-- `EX DE, HL` (41_load16.md R155). -/
def execExDEHL (s : State) : Result := ((s.setReg16 .de (s.reg16 .hl)).setReg16 .hl (s.reg16 .de)).finish 1

/-- `EX (SP), HL` (41_load16.md R156). Both bytes are read, then H is written at SP + 1, then L at SP; SP stays
(decision D14: UNVERIFIED, log 32). -/
def execExSPHL (s : State) : Result :=
  s.load16 s.sp fun w =>
    s.store (s.sp + 1) s.regs.h fun t =>
      t.store s.sp s.regs.l fun u => assign16 .hl w 1 u

/-- `PUSH qq` (41_load16.md R157). Of AF, bits 5 and 3 of the byte stored are undetermined (log 6). -/
def execPushPair (qq : RegQQ) (s : State) : Result := s.readQQ qq fun w s => s.push w fun s => s.finish 1

/-- `PUSH IX` (41_load16.md R158). -/
def execPushIX (s : State) : Result := pushReg16 .ix 2 s

/-- `PUSH IY` (41_load16.md R159). -/
def execPushIY (s : State) : Result := pushReg16 .iy 2 s

/-- `POP qq` (41_load16.md R160). POP AF writes all six flags. -/
def execPopPair (qq : RegQQ) (s : State) : Result := s.pop fun w s => (s.writeQQ qq w).finish 1

/-- `POP IX` (41_load16.md R161). -/
def execPopIX (s : State) : Result := popReg16 .ix 2 s

/-- `POP IY` (41_load16.md R162). -/
def execPopIY (s : State) : Result := popReg16 .iy 2 s

end Sys2Proof.Machine
end

