-- ==== Sys2Proof/Machine/Load8.lean ====
section
/-! DEFINITION. The 8-bit loads (40_load8.md): none reads or writes a flag (R120). One meaning per row, in the table's order. -/

namespace Sys2Proof.Machine

/-- `LD r, r'` (40_load8.md R121). -/
def execLdRegReg (r : Reg8) (r' : Reg8) (s : State) : Result := moveByte (.reg r) (.place (.reg r')) 1 s

/-- `LD r, n` (40_load8.md R122). -/
def execLdRegImm (r : Reg8) (n : Byte) (s : State) : Result := moveByte (.reg r) (.imm n) 2 s

/-- `LD r, (HL)` (40_load8.md R123). -/
def execLdRegHL (r : Reg8) (s : State) : Result := moveByte (.reg r) (.place (.mem .atHL)) 1 s

/-- `LD r, (IX + d)` (40_load8.md R124). -/
def execLdRegIX (r : Reg8) (d : Byte) (s : State) : Result := moveByte (.reg r) (.place (.mem (.atIX d))) 3 s

/-- `LD r, (IY + d)` (40_load8.md R125). -/
def execLdRegIY (r : Reg8) (d : Byte) (s : State) : Result := moveByte (.reg r) (.place (.mem (.atIY d))) 3 s

/-- `LD (HL), r` (40_load8.md R126). -/
def execLdHLReg (r : Reg8) (s : State) : Result := moveByte (.mem .atHL) (.place (.reg r)) 1 s

/-- `LD (IX + d), r` (40_load8.md R127). -/
def execLdIXReg (d : Byte) (r : Reg8) (s : State) : Result := moveByte (.mem (.atIX d)) (.place (.reg r)) 3 s

/-- `LD (IY + d), r` (40_load8.md R128). -/
def execLdIYReg (d : Byte) (r : Reg8) (s : State) : Result := moveByte (.mem (.atIY d)) (.place (.reg r)) 3 s

/-- `LD (HL), n` (40_load8.md R129). -/
def execLdHLImm (n : Byte) (s : State) : Result := moveByte (.mem .atHL) (.imm n) 2 s

/-- `LD (IX + d), n` (40_load8.md R130). -/
def execLdIXImm (d : Byte) (n : Byte) (s : State) : Result := moveByte (.mem (.atIX d)) (.imm n) 4 s

/-- `LD (IY + d), n` (40_load8.md R131). -/
def execLdIYImm (d : Byte) (n : Byte) (s : State) : Result := moveByte (.mem (.atIY d)) (.imm n) 4 s

/-- `LD A, (BC)` (40_load8.md R132). -/
def execLdABC (s : State) : Result := moveByte (.reg .a) (.place (.mem .atBC)) 1 s

/-- `LD A, (DE)` (40_load8.md R133). -/
def execLdADE (s : State) : Result := moveByte (.reg .a) (.place (.mem .atDE)) 1 s

/-- `LD A, (nn)` (40_load8.md R134). -/
def execLdAMem (nn : Word) (s : State) : Result := moveByte (.reg .a) (.place (.mem (.atAddr nn))) 3 s

/-- `LD (BC), A` (40_load8.md R135). -/
def execLdBCA (s : State) : Result := moveByte (.mem .atBC) (.place (.reg .a)) 1 s

/-- `LD (DE), A` (40_load8.md R136). -/
def execLdDEA (s : State) : Result := moveByte (.mem .atDE) (.place (.reg .a)) 1 s

/-- `LD (nn), A` (40_load8.md R137). -/
def execLdMemA (nn : Word) (s : State) : Result := moveByte (.mem (.atAddr nn)) (.place (.reg .a)) 3 s

end Sys2Proof.Machine
end

