-- ==== Sys2Proof/Machine/ShiftRotate.lean ====
section
/-! DEFINITION. The shifts and rotates (47_shift_rotate.md). The source's diagrams are lost: the operations are
UNVERIFIED (G6, G7), log 23. One meaning per row, in the table's order. -/

namespace Sys2Proof.Machine

/-- `RLCA` (47_shift_rotate.md R294). -/
def execRlca (s : State) : Result := changeA (rotateA rlc8) 1 s

/-- `RLA` (47_shift_rotate.md R295). -/
def execRla (s : State) : Result := changeA (rotateA rl8) 1 s

/-- `RRCA` (47_shift_rotate.md R296). -/
def execRrca (s : State) : Result := changeA (rotateA rrc8) 1 s

/-- `RRA` (47_shift_rotate.md R297). -/
def execRra (s : State) : Result := changeA (rotateA rr8) 1 s

/-- `RLC r` (47_shift_rotate.md R298). -/
def execRlcReg (r : Reg8) (s : State) : Result := modifyByte (shiftByte rlc8) (.reg r) 2 s

/-- `RLC (HL)` (47_shift_rotate.md R299). -/
def execRlcHL (s : State) : Result := modifyByte (shiftByte rlc8) (.mem .atHL) 2 s

/-- `RLC (IX + d)` (47_shift_rotate.md R300). -/
def execRlcIX (d : Byte) (s : State) : Result := modifyByte (shiftByte rlc8) (.mem (.atIX d)) 4 s

/-- `RLC (IY + d)` (47_shift_rotate.md R301). -/
def execRlcIY (d : Byte) (s : State) : Result := modifyByte (shiftByte rlc8) (.mem (.atIY d)) 4 s

/-- `RL r` (47_shift_rotate.md R302). -/
def execRlReg (r : Reg8) (s : State) : Result := modifyByte (shiftByte rl8) (.reg r) 2 s

/-- `RL (HL)` (47_shift_rotate.md R303). -/
def execRlHL (s : State) : Result := modifyByte (shiftByte rl8) (.mem .atHL) 2 s

/-- `RL (IX + d)` (47_shift_rotate.md R304). -/
def execRlIX (d : Byte) (s : State) : Result := modifyByte (shiftByte rl8) (.mem (.atIX d)) 4 s

/-- `RL (IY + d)` (47_shift_rotate.md R305). -/
def execRlIY (d : Byte) (s : State) : Result := modifyByte (shiftByte rl8) (.mem (.atIY d)) 4 s

/-- `RRC r` (47_shift_rotate.md R306). -/
def execRrcReg (r : Reg8) (s : State) : Result := modifyByte (shiftByte rrc8) (.reg r) 2 s

/-- `RRC (HL)` (47_shift_rotate.md R307). -/
def execRrcHL (s : State) : Result := modifyByte (shiftByte rrc8) (.mem .atHL) 2 s

/-- `RRC (IX + d)` (47_shift_rotate.md R308). -/
def execRrcIX (d : Byte) (s : State) : Result := modifyByte (shiftByte rrc8) (.mem (.atIX d)) 4 s

/-- `RRC (IY + d)` (47_shift_rotate.md R309). -/
def execRrcIY (d : Byte) (s : State) : Result := modifyByte (shiftByte rrc8) (.mem (.atIY d)) 4 s

/-- `RR r` (47_shift_rotate.md R310). -/
def execRrReg (r : Reg8) (s : State) : Result := modifyByte (shiftByte rr8) (.reg r) 2 s

/-- `RR (HL)` (47_shift_rotate.md R311). -/
def execRrHL (s : State) : Result := modifyByte (shiftByte rr8) (.mem .atHL) 2 s

/-- `RR (IX + d)` (47_shift_rotate.md R312). -/
def execRrIX (d : Byte) (s : State) : Result := modifyByte (shiftByte rr8) (.mem (.atIX d)) 4 s

/-- `RR (IY + d)` (47_shift_rotate.md R313). -/
def execRrIY (d : Byte) (s : State) : Result := modifyByte (shiftByte rr8) (.mem (.atIY d)) 4 s

/-- `RLD` (47_shift_rotate.md R314). -/
def execRld (s : State) : Result := rotateDigits rldDigits s

/-- `RRD` (47_shift_rotate.md R315). -/
def execRrd (s : State) : Result := rotateDigits rrdDigits s

/-- `SLA r` (47_shift_rotate.md R316). -/
def execSlaReg (r : Reg8) (s : State) : Result := modifyByte (shiftByte sla8) (.reg r) 2 s

/-- `SLA (HL)` (47_shift_rotate.md R317). -/
def execSlaHL (s : State) : Result := modifyByte (shiftByte sla8) (.mem .atHL) 2 s

/-- `SLA (IX + d)` (47_shift_rotate.md R318). -/
def execSlaIX (d : Byte) (s : State) : Result := modifyByte (shiftByte sla8) (.mem (.atIX d)) 4 s

/-- `SLA (IY + d)` (47_shift_rotate.md R319). -/
def execSlaIY (d : Byte) (s : State) : Result := modifyByte (shiftByte sla8) (.mem (.atIY d)) 4 s

/-- `SRA r` (47_shift_rotate.md R320). -/
def execSraReg (r : Reg8) (s : State) : Result := modifyByte (shiftByte sra8) (.reg r) 2 s

/-- `SRA (HL)` (47_shift_rotate.md R321). -/
def execSraHL (s : State) : Result := modifyByte (shiftByte sra8) (.mem .atHL) 2 s

/-- `SRA (IX + d)` (47_shift_rotate.md R322). -/
def execSraIX (d : Byte) (s : State) : Result := modifyByte (shiftByte sra8) (.mem (.atIX d)) 4 s

/-- `SRA (IY + d)` (47_shift_rotate.md R323). -/
def execSraIY (d : Byte) (s : State) : Result := modifyByte (shiftByte sra8) (.mem (.atIY d)) 4 s

/-- `SRL r` (47_shift_rotate.md R324). -/
def execSrlReg (r : Reg8) (s : State) : Result := modifyByte (shiftByte srl8) (.reg r) 2 s

/-- `SRL (HL)` (47_shift_rotate.md R325). -/
def execSrlHL (s : State) : Result := modifyByte (shiftByte srl8) (.mem .atHL) 2 s

/-- `SRL (IX + d)` (47_shift_rotate.md R326). -/
def execSrlIX (d : Byte) (s : State) : Result := modifyByte (shiftByte srl8) (.mem (.atIX d)) 4 s

/-- `SRL (IY + d)` (47_shift_rotate.md R327). -/
def execSrlIY (d : Byte) (s : State) : Result := modifyByte (shiftByte srl8) (.mem (.atIY d)) 4 s

end Sys2Proof.Machine
end

