-- ==== Sys2Proof/Machine/Dispatch.lean ====
section
/-! DEFINITION. exec: one arm per constructor of Instr, each one direct call of its meaning. -/

namespace Sys2Proof.Machine

def exec (i : Instr) (s : State) : Host.Outcome State Fault Refusal :=
  match i with
  | .ldRegReg r r' => Sys2Proof.Machine.execLdRegReg r r' s
  | .ldRegImm r n => Sys2Proof.Machine.execLdRegImm r n s
  | .ldRegHL r => Sys2Proof.Machine.execLdRegHL r s
  | .ldRegIX r d => Sys2Proof.Machine.execLdRegIX r d s
  | .ldRegIY r d => Sys2Proof.Machine.execLdRegIY r d s
  | .ldHLReg r => Sys2Proof.Machine.execLdHLReg r s
  | .ldIXReg d r => Sys2Proof.Machine.execLdIXReg d r s
  | .ldIYReg d r => Sys2Proof.Machine.execLdIYReg d r s
  | .ldHLImm n => Sys2Proof.Machine.execLdHLImm n s
  | .ldIXImm d n => Sys2Proof.Machine.execLdIXImm d n s
  | .ldIYImm d n => Sys2Proof.Machine.execLdIYImm d n s
  | .ldABC => Sys2Proof.Machine.execLdABC s
  | .ldADE => Sys2Proof.Machine.execLdADE s
  | .ldAMem nn => Sys2Proof.Machine.execLdAMem nn s
  | .ldBCA => Sys2Proof.Machine.execLdBCA s
  | .ldDEA => Sys2Proof.Machine.execLdDEA s
  | .ldMemA nn => Sys2Proof.Machine.execLdMemA nn s
  | .ldPairImm dd nn => Sys2Proof.Machine.execLdPairImm dd nn s
  | .ldIXImm16 nn => Sys2Proof.Machine.execLdIXImm16 nn s
  | .ldIYImm16 nn => Sys2Proof.Machine.execLdIYImm16 nn s
  | .ldHLMem nn => Sys2Proof.Machine.execLdHLMem nn s
  | .ldPairMem dd nn => Sys2Proof.Machine.execLdPairMem dd nn s
  | .ldIXMem nn => Sys2Proof.Machine.execLdIXMem nn s
  | .ldIYMem nn => Sys2Proof.Machine.execLdIYMem nn s
  | .ldMemHL nn => Sys2Proof.Machine.execLdMemHL nn s
  | .ldMemPair nn dd => Sys2Proof.Machine.execLdMemPair nn dd s
  | .ldMemIX nn => Sys2Proof.Machine.execLdMemIX nn s
  | .ldMemIY nn => Sys2Proof.Machine.execLdMemIY nn s
  | .ldSPHL => Sys2Proof.Machine.execLdSPHL s
  | .ldSPIX => Sys2Proof.Machine.execLdSPIX s
  | .ldSPIY => Sys2Proof.Machine.execLdSPIY s
  | .exDEHL => Sys2Proof.Machine.execExDEHL s
  | .exSPHL => Sys2Proof.Machine.execExSPHL s
  | .pushPair qq => Sys2Proof.Machine.execPushPair qq s
  | .pushIX => Sys2Proof.Machine.execPushIX s
  | .pushIY => Sys2Proof.Machine.execPushIY s
  | .popPair qq => Sys2Proof.Machine.execPopPair qq s
  | .popIX => Sys2Proof.Machine.execPopIX s
  | .popIY => Sys2Proof.Machine.execPopIY s
  | .addAReg r => Sys2Proof.Machine.execAddAReg r s
  | .addAImm n => Sys2Proof.Machine.execAddAImm n s
  | .addAHL => Sys2Proof.Machine.execAddAHL s
  | .addAIX d => Sys2Proof.Machine.execAddAIX d s
  | .addAIY d => Sys2Proof.Machine.execAddAIY d s
  | .adcAReg r => Sys2Proof.Machine.execAdcAReg r s
  | .adcAImm n => Sys2Proof.Machine.execAdcAImm n s
  | .adcAHL => Sys2Proof.Machine.execAdcAHL s
  | .adcAIX d => Sys2Proof.Machine.execAdcAIX d s
  | .adcAIY d => Sys2Proof.Machine.execAdcAIY d s
  | .subAReg r => Sys2Proof.Machine.execSubAReg r s
  | .subAImm n => Sys2Proof.Machine.execSubAImm n s
  | .subAHL => Sys2Proof.Machine.execSubAHL s
  | .subAIX d => Sys2Proof.Machine.execSubAIX d s
  | .subAIY d => Sys2Proof.Machine.execSubAIY d s
  | .sbcAReg r => Sys2Proof.Machine.execSbcAReg r s
  | .sbcAImm n => Sys2Proof.Machine.execSbcAImm n s
  | .sbcAHL => Sys2Proof.Machine.execSbcAHL s
  | .sbcAIX d => Sys2Proof.Machine.execSbcAIX d s
  | .sbcAIY d => Sys2Proof.Machine.execSbcAIY d s
  | .cpAReg r => Sys2Proof.Machine.execCpAReg r s
  | .cpAImm n => Sys2Proof.Machine.execCpAImm n s
  | .cpAHL => Sys2Proof.Machine.execCpAHL s
  | .cpAIX d => Sys2Proof.Machine.execCpAIX d s
  | .cpAIY d => Sys2Proof.Machine.execCpAIY d s
  | .andAReg r => Sys2Proof.Machine.execAndAReg r s
  | .andAImm n => Sys2Proof.Machine.execAndAImm n s
  | .andAHL => Sys2Proof.Machine.execAndAHL s
  | .andAIX d => Sys2Proof.Machine.execAndAIX d s
  | .andAIY d => Sys2Proof.Machine.execAndAIY d s
  | .orAReg r => Sys2Proof.Machine.execOrAReg r s
  | .orAImm n => Sys2Proof.Machine.execOrAImm n s
  | .orAHL => Sys2Proof.Machine.execOrAHL s
  | .orAIX d => Sys2Proof.Machine.execOrAIX d s
  | .orAIY d => Sys2Proof.Machine.execOrAIY d s
  | .xorAReg r => Sys2Proof.Machine.execXorAReg r s
  | .xorAImm n => Sys2Proof.Machine.execXorAImm n s
  | .xorAHL => Sys2Proof.Machine.execXorAHL s
  | .xorAIX d => Sys2Proof.Machine.execXorAIX d s
  | .xorAIY d => Sys2Proof.Machine.execXorAIY d s
  | .incReg r => Sys2Proof.Machine.execIncReg r s
  | .incHL => Sys2Proof.Machine.execIncHL s
  | .incIX d => Sys2Proof.Machine.execIncIX d s
  | .incIY d => Sys2Proof.Machine.execIncIY d s
  | .decReg r => Sys2Proof.Machine.execDecReg r s
  | .decHL => Sys2Proof.Machine.execDecHL s
  | .decIX d => Sys2Proof.Machine.execDecIX d s
  | .decIY d => Sys2Proof.Machine.execDecIY d s
  | .daa => Sys2Proof.Machine.execDaa s
  | .cpl => Sys2Proof.Machine.execCpl s
  | .neg => Sys2Proof.Machine.execNeg s
  | .addHLPair ss => Sys2Proof.Machine.execAddHLPair ss s
  | .adcHLPair ss => Sys2Proof.Machine.execAdcHLPair ss s
  | .sbcHLPair ss => Sys2Proof.Machine.execSbcHLPair ss s
  | .addIXPair pp => Sys2Proof.Machine.execAddIXPair pp s
  | .addIYPair rr => Sys2Proof.Machine.execAddIYPair rr s
  | .incPair ss => Sys2Proof.Machine.execIncPair ss s
  | .incIX16 => Sys2Proof.Machine.execIncIX16 s
  | .incIY16 => Sys2Proof.Machine.execIncIY16 s
  | .decPair ss => Sys2Proof.Machine.execDecPair ss s
  | .decIX16 => Sys2Proof.Machine.execDecIX16 s
  | .decIY16 => Sys2Proof.Machine.execDecIY16 s
  | .ccf => Sys2Proof.Machine.execCcf s
  | .scf => Sys2Proof.Machine.execScf s
  | .nop => Sys2Proof.Machine.execNop s
  | .halt => Sys2Proof.Machine.execHalt s
  | .di => Sys2Proof.Machine.execDi s
  | .ei => Sys2Proof.Machine.execEi s
  | .jp nn => Sys2Proof.Machine.execJp nn s
  | .jpCond cc nn => Sys2Proof.Machine.execJpCond cc nn s
  | .jpHL => Sys2Proof.Machine.execJpHL s
  | .jpIX => Sys2Proof.Machine.execJpIX s
  | .jpIY => Sys2Proof.Machine.execJpIY s
  | .call nn => Sys2Proof.Machine.execCall nn s
  | .callCond cc nn => Sys2Proof.Machine.execCallCond cc nn s
  | .ret => Sys2Proof.Machine.execRet s
  | .retCond cc => Sys2Proof.Machine.execRetCond cc s
  | .rst p => Sys2Proof.Machine.execRst p s
  | .rlca => Sys2Proof.Machine.execRlca s
  | .rla => Sys2Proof.Machine.execRla s
  | .rrca => Sys2Proof.Machine.execRrca s
  | .rra => Sys2Proof.Machine.execRra s
  | .rlcReg r => Sys2Proof.Machine.execRlcReg r s
  | .rlcHL => Sys2Proof.Machine.execRlcHL s
  | .rlcIX d => Sys2Proof.Machine.execRlcIX d s
  | .rlcIY d => Sys2Proof.Machine.execRlcIY d s
  | .rlReg r => Sys2Proof.Machine.execRlReg r s
  | .rlHL => Sys2Proof.Machine.execRlHL s
  | .rlIX d => Sys2Proof.Machine.execRlIX d s
  | .rlIY d => Sys2Proof.Machine.execRlIY d s
  | .rrcReg r => Sys2Proof.Machine.execRrcReg r s
  | .rrcHL => Sys2Proof.Machine.execRrcHL s
  | .rrcIX d => Sys2Proof.Machine.execRrcIX d s
  | .rrcIY d => Sys2Proof.Machine.execRrcIY d s
  | .rrReg r => Sys2Proof.Machine.execRrReg r s
  | .rrHL => Sys2Proof.Machine.execRrHL s
  | .rrIX d => Sys2Proof.Machine.execRrIX d s
  | .rrIY d => Sys2Proof.Machine.execRrIY d s
  | .rld => Sys2Proof.Machine.execRld s
  | .rrd => Sys2Proof.Machine.execRrd s
  | .slaReg r => Sys2Proof.Machine.execSlaReg r s
  | .slaHL => Sys2Proof.Machine.execSlaHL s
  | .slaIX d => Sys2Proof.Machine.execSlaIX d s
  | .slaIY d => Sys2Proof.Machine.execSlaIY d s
  | .sraReg r => Sys2Proof.Machine.execSraReg r s
  | .sraHL => Sys2Proof.Machine.execSraHL s
  | .sraIX d => Sys2Proof.Machine.execSraIX d s
  | .sraIY d => Sys2Proof.Machine.execSraIY d s
  | .srlReg r => Sys2Proof.Machine.execSrlReg r s
  | .srlHL => Sys2Proof.Machine.execSrlHL s
  | .srlIX d => Sys2Proof.Machine.execSrlIX d s
  | .srlIY d => Sys2Proof.Machine.execSrlIY d s
  | .bitReg b r => Sys2Proof.Machine.execBitReg b r s
  | .bitHL b => Sys2Proof.Machine.execBitHL b s
  | .bitIX b d => Sys2Proof.Machine.execBitIX b d s
  | .bitIY b d => Sys2Proof.Machine.execBitIY b d s
  | .setReg b r => Sys2Proof.Machine.execSetReg b r s
  | .setHL b => Sys2Proof.Machine.execSetHL b s
  | .setIX b d => Sys2Proof.Machine.execSetIX b d s
  | .setIY b d => Sys2Proof.Machine.execSetIY b d s
  | .resReg b r => Sys2Proof.Machine.execResReg b r s
  | .resHL b => Sys2Proof.Machine.execResHL b s
  | .resIX b d => Sys2Proof.Machine.execResIX b d s
  | .resIY b d => Sys2Proof.Machine.execResIY b d s
  | .inAImm n => Sys2Proof.Machine.execInAImm n s
  | .inRegC r => Sys2Proof.Machine.execInRegC r s
  | .outImmA n => Sys2Proof.Machine.execOutImmA n s
  | .outCReg r => Sys2Proof.Machine.execOutCReg r s

end Sys2Proof.Machine
end

