-- ==== Sys2Proof/Decode.lean ====
section
/-! DEFINITION. Decoding: a total function from bytes to an instruction and the bytes that follow it, or a refusal by
name (30_encoding.md R90 to R96); and after it the encoder, written from the rows' encodings (opcode_table.json). -/

namespace Sys2Proof

open Machine

/-! ## Codes of operands -/

/-- The register of a 3-bit code; 110 names none (30_encoding.md R82). -/
def Reg8.ofCode (code : BitVec 3) : Option Reg8 :=
  match code with
  | 0b000#3 => some .b
  | 0b001#3 => some .c
  | 0b010#3 => some .d
  | 0b011#3 => some .e
  | 0b100#3 => some .h
  | 0b101#3 => some .l
  | 0b110#3 => none
  | _ => some .a

/-- The 3-bit code of a register (30_encoding.md R82). -/
def Reg8.code : Reg8 → BitVec 3
  | .b => 0b000 | .c => 0b001 | .d => 0b010 | .e => 0b011 | .h => 0b100 | .l => 0b101 | .a => 0b111

/-- The pair of a dd or ss code (30_encoding.md R83). -/
def RegDD.ofCode (code : BitVec 2) : RegDD :=
  match code with
  | 0b00#2 => .bc
  | 0b01#2 => .de
  | 0b10#2 => .hl
  | _ => .sp

/-- The code of a dd or ss pair (30_encoding.md R83). -/
def RegDD.code : RegDD → BitVec 2
  | .bc => 0b00 | .de => 0b01 | .hl => 0b10 | .sp => 0b11

/-- The pair of a qq code (30_encoding.md R83). -/
def RegQQ.ofCode (code : BitVec 2) : RegQQ :=
  match code with
  | 0b00#2 => .bc
  | 0b01#2 => .de
  | 0b10#2 => .hl
  | _ => .af

/-- The code of a qq pair (30_encoding.md R83). -/
def RegQQ.code : RegQQ → BitVec 2
  | .bc => 0b00 | .de => 0b01 | .hl => 0b10 | .af => 0b11

/-- The pair of a pp code (30_encoding.md R83). -/
def RegPP.ofCode (code : BitVec 2) : RegPP :=
  match code with
  | 0b00#2 => .bc
  | 0b01#2 => .de
  | 0b10#2 => .ix
  | _ => .sp

/-- The code of a pp pair (30_encoding.md R83). -/
def RegPP.code : RegPP → BitVec 2
  | .bc => 0b00 | .de => 0b01 | .ix => 0b10 | .sp => 0b11

/-- The pair of an rr code (30_encoding.md R83). -/
def RegRR.ofCode (code : BitVec 2) : RegRR :=
  match code with
  | 0b00#2 => .bc
  | 0b01#2 => .de
  | 0b10#2 => .iy
  | _ => .sp

/-- The code of an rr pair (30_encoding.md R83). -/
def RegRR.code : RegRR → BitVec 2
  | .bc => 0b00 | .de => 0b01 | .iy => 0b10 | .sp => 0b11

/-- The condition of a cc code (30_encoding.md R84). -/
def Cond.ofCode (code : BitVec 3) : Cond :=
  match code with
  | 0b000#3 => .nz
  | 0b001#3 => .z
  | 0b010#3 => .nc
  | 0b011#3 => .c
  | 0b100#3 => .po
  | 0b101#3 => .pe
  | 0b110#3 => .p
  | _ => .m

/-- The code of a condition (30_encoding.md R84). -/
def Cond.code : Cond → BitVec 3
  | .nz => 0b000 | .z => 0b001 | .nc => 0b010 | .c => 0b011
  | .po => 0b100 | .pe => 0b101 | .p => 0b110 | .m => 0b111

/-- The restart address of a code t: p = 8 * t (30_encoding.md R86). -/
def restartAddress (t : BitVec 3) : Word := t.setWidth 16 <<< 3

/-- The code t of a restart address: its bits 5..3 (30_encoding.md R86). -/
def restartCode (p : Word) : BitVec 3 := p.extractLsb' 3 3

/-! ## The decoder -/

/-- Why no instruction could be read from a list of bytes. -/
inductive DecodeRefusal where
  /-- The bytes are the beginning of an instruction and the list ends before it does. Raised by the decoder alone: a
  fetch asks for one byte more (30_encoding.md R91). Safe. -/
  | incomplete
  /-- The bytes match no row of the source (30_encoding.md R96). Safe: the run ends there. -/
  | undefinedOpcode
  deriving DecidableEq, Repr

/-- An instruction and the bytes after it, or a refusal. -/
abbrev Decoded := Except DecodeRefusal (Instr × List Byte)

/-- An instruction whose operation byte was its last byte (formats OP and PFX_OP, 30_encoding.md R81). -/
def noOperand (i : Instr) (rest : List Byte) : Decoded := .ok (i, rest)

/-- An operation byte that may match no row (30_encoding.md R96). -/
def noOperand? : Option Instr → List Byte → Decoded
  | some i, rest => .ok (i, rest)
  | none, _ => .error .undefinedOpcode

/-- An instruction with one operand byte to follow: n (R87) or d (R89). -/
def oneByte (f : Byte → Instr) : List Byte → Decoded
  | n :: rest => .ok (f n, rest)
  | [] => .error .incomplete

/-- An instruction with two operand bytes to follow (format PFX_OP_D_N, 30_encoding.md R81). -/
def twoBytes (f : Byte → Byte → Instr) : List Byte → Decoded
  | d :: n :: rest => .ok (f d n, rest)
  | _ => .error .incomplete

/-- An instruction with nn to follow, low byte first (30_encoding.md R88). UNVERIFIED (G4): unsafe if the hardware
stores nn high byte first; log 18. -/
def immediateWord (f : Word → Instr) : List Byte → Decoded
  | lo :: hi :: rest => .ok (f (word hi lo), rest)
  | _ => .error .incomplete

/-- Operation yyy of the accumulator group, on a register (42_alu8.md R173). -/
def aluReg (ooo : BitVec 3) (r : Reg8) : Instr :=
  match ooo with
  | 0b000#3 => .addAReg r
  | 0b001#3 => .adcAReg r
  | 0b010#3 => .subAReg r
  | 0b011#3 => .sbcAReg r
  | 0b100#3 => .andAReg r
  | 0b101#3 => .xorAReg r
  | 0b110#3 => .orAReg r
  | _ => .cpAReg r

/-- Operation yyy of the accumulator group, on an immediate (42_alu8.md R173). -/
def aluImm (ooo : BitVec 3) (n : Byte) : Instr :=
  match ooo with
  | 0b000#3 => .addAImm n
  | 0b001#3 => .adcAImm n
  | 0b010#3 => .subAImm n
  | 0b011#3 => .sbcAImm n
  | 0b100#3 => .andAImm n
  | 0b101#3 => .xorAImm n
  | 0b110#3 => .orAImm n
  | _ => .cpAImm n

/-- Operation yyy of the accumulator group, on the byte at HL (42_alu8.md R173). -/
def aluHL (ooo : BitVec 3) : Instr :=
  match ooo with
  | 0b000#3 => .addAHL
  | 0b001#3 => .adcAHL
  | 0b010#3 => .subAHL
  | 0b011#3 => .sbcAHL
  | 0b100#3 => .andAHL
  | 0b101#3 => .xorAHL
  | 0b110#3 => .orAHL
  | _ => .cpAHL

/-- Rows `00 yyy 111` of the main map (30_encoding.md R92). -/
def accumulatorRow (y : BitVec 3) : Instr :=
  match y with
  | 0b000#3 => .rlca
  | 0b001#3 => .rrca
  | 0b010#3 => .rla
  | 0b011#3 => .rra
  | 0b100#3 => .daa
  | 0b101#3 => .cpl
  | 0b110#3 => .scf
  | _ => .ccf

/-- Quarter `00 yyy zzz` of the main map (30_encoding.md R92). -/
def decodeQuarter0 (op : Byte) (rest : List Byte) : Decoded :=
  let y := groupY op
  let p := pairField op
  match groupZ op with
  | 0b000#3 => if y = 0b000 then noOperand .nop rest else .error .undefinedOpcode
  | 0b001#3 =>
    if bit3 op then noOperand (.addHLPair (.ofCode p)) rest
    else immediateWord (.ldPairImm (.ofCode p)) rest
  | 0b010#3 =>
    match y with
    | 0b000#3 => noOperand .ldBCA rest
    | 0b001#3 => noOperand .ldABC rest
    | 0b010#3 => noOperand .ldDEA rest
    | 0b011#3 => noOperand .ldADE rest
    | 0b100#3 => immediateWord .ldMemHL rest
    | 0b101#3 => immediateWord .ldHLMem rest
    | 0b110#3 => immediateWord .ldMemA rest
    | _ => immediateWord .ldAMem rest
  | 0b011#3 =>
    if bit3 op then noOperand (.decPair (.ofCode p)) rest else noOperand (.incPair (.ofCode p)) rest
  | 0b100#3 =>
    match Reg8.ofCode y with
    | some r => noOperand (.incReg r) rest
    | none => noOperand .incHL rest
  | 0b101#3 =>
    match Reg8.ofCode y with
    | some r => noOperand (.decReg r) rest
    | none => noOperand .decHL rest
  | 0b110#3 =>
    match Reg8.ofCode y with
    | some r => oneByte (.ldRegImm r) rest
    | none => oneByte .ldHLImm rest
  | _ => noOperand (accumulatorRow y) rest

/-- Quarter `01 yyy zzz` of the main map: the register loads and HALT (30_encoding.md R92). -/
def decodeQuarter1 (op : Byte) (rest : List Byte) : Decoded :=
  match Reg8.ofCode (groupY op), Reg8.ofCode (groupZ op) with
  | some r, some r' => noOperand (.ldRegReg r r') rest
  | some r, none => noOperand (.ldRegHL r) rest
  | none, some r => noOperand (.ldHLReg r) rest
  | none, none => noOperand .halt rest

/-- Quarter `10 yyy zzz` of the main map: the accumulator group (30_encoding.md R92). -/
def decodeQuarter2 (op : Byte) (rest : List Byte) : Decoded :=
  match Reg8.ofCode (groupZ op) with
  | some r => noOperand (aluReg (groupY op) r) rest
  | none => noOperand (aluHL (groupY op)) rest

/-- Operation ooo of the one-bit shifts on a register; 110 is no row (47_shift_rotate.md R292). -/
def shiftReg (ooo : BitVec 3) (r : Reg8) : Option Instr :=
  match ooo with
  | 0b000#3 => some (.rlcReg r)
  | 0b001#3 => some (.rrcReg r)
  | 0b010#3 => some (.rlReg r)
  | 0b011#3 => some (.rrReg r)
  | 0b100#3 => some (.slaReg r)
  | 0b101#3 => some (.sraReg r)
  | 0b110#3 => none
  | _ => some (.srlReg r)

/-- Operation ooo of the one-bit shifts on the byte at HL; 110 is no row (47_shift_rotate.md R292). -/
def shiftHL (ooo : BitVec 3) : Option Instr :=
  match ooo with
  | 0b000#3 => some .rlcHL
  | 0b001#3 => some .rrcHL
  | 0b010#3 => some .rlHL
  | 0b011#3 => some .rrHL
  | 0b100#3 => some .slaHL
  | 0b101#3 => some .sraHL
  | 0b110#3 => none
  | _ => some .srlHL

/-- The byte after CB (30_encoding.md R93). -/
def decodeCB (op : Byte) (rest : List Byte) : Decoded :=
  let y := groupY op
  match Reg8.ofCode (groupZ op) with
  | some r =>
    match groupX op with
    | 0b00#2 => noOperand? (shiftReg y r) rest
    | 0b01#2 => noOperand (.bitReg y r) rest
    | 0b10#2 => noOperand (.resReg y r) rest
    | _ => noOperand (.setReg y r) rest
  | none =>
    match groupX op with
    | 0b00#2 => noOperand? (shiftHL y) rest
    | 0b01#2 => noOperand (.bitHL y) rest
    | 0b10#2 => noOperand (.resHL y) rest
    | _ => noOperand (.setHL y) rest

/-- The byte after ED (30_encoding.md R94). The row LD (nn),dd is here and not after DD: its bit pattern wins over its
Hex cell (90_conflicts.md C1). -/
def decodeED (op : Byte) (rest : List Byte) : Decoded :=
  let p := pairField op
  match groupX op with
  | 0b01#2 =>
    match groupZ op with
    | 0b000#3 =>
      match Reg8.ofCode (groupY op) with
      | some r => noOperand (.inRegC r) rest
      | none => .error .undefinedOpcode
    | 0b001#3 =>
      match Reg8.ofCode (groupY op) with
      | some r => noOperand (.outCReg r) rest
      | none => .error .undefinedOpcode
    | 0b010#3 =>
      if bit3 op then noOperand (.adcHLPair (.ofCode p)) rest
      else noOperand (.sbcHLPair (.ofCode p)) rest
    | 0b011#3 =>
      if bit3 op then immediateWord (.ldPairMem (.ofCode p)) rest
      else immediateWord (fun nn => .ldMemPair nn (.ofCode p)) rest
    | 0b100#3 => if groupY op = 0b000 then noOperand .neg rest else .error .undefinedOpcode
    | 0b111#3 =>
      if groupY op = 0b100 then noOperand .rrd rest
      else if groupY op = 0b101 then noOperand .rld rest
      else .error .undefinedOpcode
    | _ => .error .undefinedOpcode
  | _ => .error .undefinedOpcode

/-- Which index register a DD or FD prefix selects (30_encoding.md R90). -/
inductive Index where
  | ix | iy
  deriving DecidableEq, Repr

/-- The IX row or the IY row of a pair of rows that differ in nothing else (30_encoding.md R90). -/
def Index.pick (x : Index) (forIX forIY : Instr) : Instr :=
  match x with
  | .ix => forIX
  | .iy => forIY

/-- Operation yyy of the accumulator group, on an indexed byte (42_alu8.md R173). -/
def aluIndexed (x : Index) (ooo : BitVec 3) (d : Byte) : Instr :=
  match ooo with
  | 0b000#3 => x.pick (.addAIX d) (.addAIY d)
  | 0b001#3 => x.pick (.adcAIX d) (.adcAIY d)
  | 0b010#3 => x.pick (.subAIX d) (.subAIY d)
  | 0b011#3 => x.pick (.sbcAIX d) (.sbcAIY d)
  | 0b100#3 => x.pick (.andAIX d) (.andAIY d)
  | 0b101#3 => x.pick (.xorAIX d) (.xorAIY d)
  | 0b110#3 => x.pick (.orAIX d) (.orAIY d)
  | _ => x.pick (.cpAIX d) (.cpAIY d)

/-- The row ADD IX,pp or ADD IY,rr of a pair code, whose code 10 is the index register itself (30_encoding.md R83). -/
def addIndex (x : Index) (p : BitVec 2) : Instr :=
  x.pick (.addIXPair (.ofCode p)) (.addIYPair (.ofCode p))

/-- The byte after DD or FD, other than CB (30_encoding.md R95). -/
def decodeIndexed (x : Index) (op : Byte) (rest : List Byte) : Decoded :=
  match groupX op with
  | 0b00#2 =>
    match groupZ op with
    | 0b001#3 =>
      if bit3 op then noOperand (addIndex x (pairField op)) rest
      else if groupY op = 0b100 then immediateWord (fun nn => x.pick (.ldIXImm16 nn) (.ldIYImm16 nn)) rest
      else .error .undefinedOpcode
    | 0b010#3 =>
      if groupY op = 0b100 then immediateWord (fun nn => x.pick (.ldMemIX nn) (.ldMemIY nn)) rest
      else if groupY op = 0b101 then immediateWord (fun nn => x.pick (.ldIXMem nn) (.ldIYMem nn)) rest
      else .error .undefinedOpcode
    | 0b011#3 =>
      if groupY op = 0b100 then noOperand (x.pick .incIX16 .incIY16) rest
      else if groupY op = 0b101 then noOperand (x.pick .decIX16 .decIY16) rest
      else .error .undefinedOpcode
    | 0b100#3 =>
      if groupY op = 0b110 then oneByte (fun d => x.pick (.incIX d) (.incIY d)) rest
      else .error .undefinedOpcode
    | 0b101#3 =>
      if groupY op = 0b110 then oneByte (fun d => x.pick (.decIX d) (.decIY d)) rest
      else .error .undefinedOpcode
    | 0b110#3 =>
      if groupY op = 0b110 then twoBytes (fun d n => x.pick (.ldIXImm d n) (.ldIYImm d n)) rest
      else .error .undefinedOpcode
    | _ => .error .undefinedOpcode
  | 0b01#2 =>
    match Reg8.ofCode (groupY op), Reg8.ofCode (groupZ op) with
    | some r, none => oneByte (fun d => x.pick (.ldRegIX r d) (.ldRegIY r d)) rest
    | none, some r => oneByte (fun d => x.pick (.ldIXReg d r) (.ldIYReg d r)) rest
    | _, _ => .error .undefinedOpcode
  | 0b10#2 =>
    if groupZ op = 0b110 then oneByte (aluIndexed x (groupY op)) rest else .error .undefinedOpcode
  | _ =>
    if op = 0xE1 then noOperand (x.pick .popIX .popIY) rest
    else if op = 0xE5 then noOperand (x.pick .pushIX .pushIY) rest
    else if op = 0xE9 then noOperand (x.pick .jpIX .jpIY) rest
    else if op = 0xF9 then noOperand (x.pick .ldSPIX .ldSPIY) rest
    else .error .undefinedOpcode

/-- Operation ooo of the one-bit shifts on an indexed byte; 110 is no row (47_shift_rotate.md R292). -/
def shiftIndexed (x : Index) (ooo : BitVec 3) (d : Byte) : Option Instr :=
  match ooo with
  | 0b000#3 => some (x.pick (.rlcIX d) (.rlcIY d))
  | 0b001#3 => some (x.pick (.rrcIX d) (.rrcIY d))
  | 0b010#3 => some (x.pick (.rlIX d) (.rlIY d))
  | 0b011#3 => some (x.pick (.rrIX d) (.rrIY d))
  | 0b100#3 => some (x.pick (.slaIX d) (.slaIY d))
  | 0b101#3 => some (x.pick (.sraIX d) (.sraIY d))
  | 0b110#3 => none
  | _ => some (x.pick (.srlIX d) (.srlIY d))

/-- The displacement and the operation byte after DD CB or FD CB (30_encoding.md R95). -/
def decodeIndexedCB (x : Index) (d op : Byte) (rest : List Byte) : Decoded :=
  let y := groupY op
  if groupZ op = 0b110 then
    match groupX op with
    | 0b00#2 => noOperand? (shiftIndexed x y d) rest
    | 0b01#2 => noOperand (x.pick (.bitIX y d) (.bitIY y d)) rest
    | 0b10#2 => noOperand (x.pick (.resIX y d) (.resIY y d)) rest
    | _ => noOperand (x.pick (.setIX y d) (.setIY y d)) rest
  else .error .undefinedOpcode

/-- The bytes after DD or FD (30_encoding.md R91): after CB the displacement comes before the operation byte. -/
def decodeAfterIndex (x : Index) : List Byte → Decoded
  | 0xCB#8 :: d :: op :: rest => decodeIndexedCB x d op rest
  | [0xCB#8, _] => .error .incomplete
  | [0xCB#8] => .error .incomplete
  | op :: rest => decodeIndexed x op rest
  | [] => .error .incomplete

/-- The bytes after CB (30_encoding.md R91). -/
def decodeAfterCB : List Byte → Decoded
  | op :: rest => decodeCB op rest
  | [] => .error .incomplete

/-- The bytes after ED (30_encoding.md R91). -/
def decodeAfterED : List Byte → Decoded
  | op :: rest => decodeED op rest
  | [] => .error .incomplete

/-- Rows `11 yyy 001` of the main map (30_encoding.md R92). -/
def decodeStackRow (op : Byte) (rest : List Byte) : Decoded :=
  match groupY op with
  | 0b001#3 => noOperand .ret rest
  | 0b011#3 => .error .undefinedOpcode
  | 0b101#3 => noOperand .jpHL rest
  | 0b111#3 => noOperand .ldSPHL rest
  | _ => noOperand (.popPair (.ofCode (pairField op))) rest

/-- Rows `11 yyy 011` of the main map (30_encoding.md R92), CB the prefix of R90 among them. -/
def decodeMiscRow (op : Byte) (rest : List Byte) : Decoded :=
  match groupY op with
  | 0b000#3 => immediateWord .jp rest
  | 0b001#3 => decodeAfterCB rest
  | 0b010#3 => oneByte .outImmA rest
  | 0b011#3 => oneByte .inAImm rest
  | 0b100#3 => noOperand .exSPHL rest
  | 0b101#3 => noOperand .exDEHL rest
  | 0b110#3 => noOperand .di rest
  | _ => noOperand .ei rest

/-- Rows `11 yyy 101` of the main map (30_encoding.md R92), DD, ED and FD the prefixes of R90 among them. -/
def decodePushRow (op : Byte) (rest : List Byte) : Decoded :=
  match groupY op with
  | 0b001#3 => immediateWord .call rest
  | 0b011#3 => decodeAfterIndex .ix rest
  | 0b101#3 => decodeAfterED rest
  | 0b111#3 => decodeAfterIndex .iy rest
  | _ => noOperand (.pushPair (.ofCode (pairField op))) rest

/-- Quarter `11 yyy zzz` of the main map (30_encoding.md R92). -/
def decodeQuarter3 (op : Byte) (rest : List Byte) : Decoded :=
  match groupZ op with
  | 0b000#3 => noOperand (.retCond (.ofCode (groupY op))) rest
  | 0b001#3 => decodeStackRow op rest
  | 0b010#3 => immediateWord (.jpCond (.ofCode (groupY op))) rest
  | 0b011#3 => decodeMiscRow op rest
  | 0b100#3 => immediateWord (.callCond (.ofCode (groupY op))) rest
  | 0b101#3 => decodePushRow op rest
  | 0b110#3 => oneByte (aluImm (groupY op)) rest
  | _ => noOperand (.rst (restartAddress (groupY op))) rest

/-- The decoder: from the bytes at pc, in address order, the instruction they begin with and the bytes after it, or a
refusal by name (30_encoding.md R91). No state takes part in it. -/
def decode : List Byte → Decoded
  | [] => .error .incomplete
  | op :: rest =>
    match groupX op with
    | 0b00#2 => decodeQuarter0 op rest
    | 0b01#2 => decodeQuarter1 op rest
    | 0b10#2 => decodeQuarter2 op rest
    | _ => decodeQuarter3 op rest

/-! ## The encoder -/

/-- The bytes of an instruction, in address order, from the encoding of its row (opcode_table.json; 30_encoding.md
R81). Meant for well-formed instructions: of another RST it keeps bits 5..3 of the address. -/
def encode : Instr → List Byte
  | .ldRegReg r r' => [opByte 0b01 r.code r'.code]
  | .ldRegImm r n => [opByte 0b00 r.code 0b110, n]
  | .ldRegHL r => [opByte 0b01 r.code 0b110]
  | .ldRegIX r d => [0xDD, opByte 0b01 r.code 0b110, d]
  | .ldRegIY r d => [0xFD, opByte 0b01 r.code 0b110, d]
  | .ldHLReg r => [opByte 0b01 0b110 r.code]
  | .ldIXReg d r => [0xDD, opByte 0b01 0b110 r.code, d]
  | .ldIYReg d r => [0xFD, opByte 0b01 0b110 r.code, d]
  | .ldHLImm n => [0x36, n]
  | .ldIXImm d n => [0xDD, 0x36, d, n]
  | .ldIYImm d n => [0xFD, 0x36, d, n]
  | .ldABC => [0x0A]
  | .ldADE => [0x1A]
  | .ldAMem nn => [0x3A, lowByte nn, highByte nn]
  | .ldBCA => [0x02]
  | .ldDEA => [0x12]
  | .ldMemA nn => [0x32, lowByte nn, highByte nn]
  | .ldPairImm dd nn => [opPair 0b00 dd.code 0b0 0b001, lowByte nn, highByte nn]
  | .ldIXImm16 nn => [0xDD, 0x21, lowByte nn, highByte nn]
  | .ldIYImm16 nn => [0xFD, 0x21, lowByte nn, highByte nn]
  | .ldHLMem nn => [0x2A, lowByte nn, highByte nn]
  | .ldPairMem dd nn => [0xED, opPair 0b01 dd.code 0b1 0b011, lowByte nn, highByte nn]
  | .ldIXMem nn => [0xDD, 0x2A, lowByte nn, highByte nn]
  | .ldIYMem nn => [0xFD, 0x2A, lowByte nn, highByte nn]
  | .ldMemHL nn => [0x22, lowByte nn, highByte nn]
  | .ldMemPair nn dd => [0xED, opPair 0b01 dd.code 0b0 0b011, lowByte nn, highByte nn]
  | .ldMemIX nn => [0xDD, 0x22, lowByte nn, highByte nn]
  | .ldMemIY nn => [0xFD, 0x22, lowByte nn, highByte nn]
  | .ldSPHL => [0xF9]
  | .ldSPIX => [0xDD, 0xF9]
  | .ldSPIY => [0xFD, 0xF9]
  | .exDEHL => [0xEB]
  | .exSPHL => [0xE3]
  | .pushPair qq => [opPair 0b11 qq.code 0b0 0b101]
  | .pushIX => [0xDD, 0xE5]
  | .pushIY => [0xFD, 0xE5]
  | .popPair qq => [opPair 0b11 qq.code 0b0 0b001]
  | .popIX => [0xDD, 0xE1]
  | .popIY => [0xFD, 0xE1]
  | .addAReg r => [opByte 0b10 0b000 r.code]
  | .addAImm n => [0xC6, n]
  | .addAHL => [0x86]
  | .addAIX d => [0xDD, 0x86, d]
  | .addAIY d => [0xFD, 0x86, d]
  | .adcAReg r => [opByte 0b10 0b001 r.code]
  | .adcAImm n => [0xCE, n]
  | .adcAHL => [0x8E]
  | .adcAIX d => [0xDD, 0x8E, d]
  | .adcAIY d => [0xFD, 0x8E, d]
  | .subAReg r => [opByte 0b10 0b010 r.code]
  | .subAImm n => [0xD6, n]
  | .subAHL => [0x96]
  | .subAIX d => [0xDD, 0x96, d]
  | .subAIY d => [0xFD, 0x96, d]
  | .sbcAReg r => [opByte 0b10 0b011 r.code]
  | .sbcAImm n => [0xDE, n]
  | .sbcAHL => [0x9E]
  | .sbcAIX d => [0xDD, 0x9E, d]
  | .sbcAIY d => [0xFD, 0x9E, d]
  | .cpAReg r => [opByte 0b10 0b111 r.code]
  | .cpAImm n => [0xFE, n]
  | .cpAHL => [0xBE]
  | .cpAIX d => [0xDD, 0xBE, d]
  | .cpAIY d => [0xFD, 0xBE, d]
  | .andAReg r => [opByte 0b10 0b100 r.code]
  | .andAImm n => [0xE6, n]
  | .andAHL => [0xA6]
  | .andAIX d => [0xDD, 0xA6, d]
  | .andAIY d => [0xFD, 0xA6, d]
  | .orAReg r => [opByte 0b10 0b110 r.code]
  | .orAImm n => [0xF6, n]
  | .orAHL => [0xB6]
  | .orAIX d => [0xDD, 0xB6, d]
  | .orAIY d => [0xFD, 0xB6, d]
  | .xorAReg r => [opByte 0b10 0b101 r.code]
  | .xorAImm n => [0xEE, n]
  | .xorAHL => [0xAE]
  | .xorAIX d => [0xDD, 0xAE, d]
  | .xorAIY d => [0xFD, 0xAE, d]
  | .incReg r => [opByte 0b00 r.code 0b100]
  | .incHL => [0x34]
  | .incIX d => [0xDD, 0x34, d]
  | .incIY d => [0xFD, 0x34, d]
  | .decReg r => [opByte 0b00 r.code 0b101]
  | .decHL => [0x35]
  | .decIX d => [0xDD, 0x35, d]
  | .decIY d => [0xFD, 0x35, d]
  | .daa => [0x27]
  | .cpl => [0x2F]
  | .neg => [0xED, 0x44]
  | .addHLPair ss => [opPair 0b00 ss.code 0b1 0b001]
  | .adcHLPair ss => [0xED, opPair 0b01 ss.code 0b1 0b010]
  | .sbcHLPair ss => [0xED, opPair 0b01 ss.code 0b0 0b010]
  | .addIXPair pp => [0xDD, opPair 0b00 pp.code 0b1 0b001]
  | .addIYPair rr => [0xFD, opPair 0b00 rr.code 0b1 0b001]
  | .incPair ss => [opPair 0b00 ss.code 0b0 0b011]
  | .incIX16 => [0xDD, 0x23]
  | .incIY16 => [0xFD, 0x23]
  | .decPair ss => [opPair 0b00 ss.code 0b1 0b011]
  | .decIX16 => [0xDD, 0x2B]
  | .decIY16 => [0xFD, 0x2B]
  | .ccf => [0x3F]
  | .scf => [0x37]
  | .nop => [0x00]
  | .halt => [0x76]
  | .di => [0xF3]
  | .ei => [0xFB]
  | .jp nn => [0xC3, lowByte nn, highByte nn]
  | .jpCond cc nn => [opByte 0b11 cc.code 0b010, lowByte nn, highByte nn]
  | .jpHL => [0xE9]
  | .jpIX => [0xDD, 0xE9]
  | .jpIY => [0xFD, 0xE9]
  | .call nn => [0xCD, lowByte nn, highByte nn]
  | .callCond cc nn => [opByte 0b11 cc.code 0b100, lowByte nn, highByte nn]
  | .ret => [0xC9]
  | .retCond cc => [opByte 0b11 cc.code 0b000]
  | .rst p => [opByte 0b11 (restartCode p) 0b111]
  | .rlca => [0x07]
  | .rla => [0x17]
  | .rrca => [0x0F]
  | .rra => [0x1F]
  | .rlcReg r => [0xCB, opByte 0b00 0b000 r.code]
  | .rlcHL => [0xCB, 0x06]
  | .rlcIX d => [0xDD, 0xCB, d, 0x06]
  | .rlcIY d => [0xFD, 0xCB, d, 0x06]
  | .rlReg r => [0xCB, opByte 0b00 0b010 r.code]
  | .rlHL => [0xCB, 0x16]
  | .rlIX d => [0xDD, 0xCB, d, 0x16]
  | .rlIY d => [0xFD, 0xCB, d, 0x16]
  | .rrcReg r => [0xCB, opByte 0b00 0b001 r.code]
  | .rrcHL => [0xCB, 0x0E]
  | .rrcIX d => [0xDD, 0xCB, d, 0x0E]
  | .rrcIY d => [0xFD, 0xCB, d, 0x0E]
  | .rrReg r => [0xCB, opByte 0b00 0b011 r.code]
  | .rrHL => [0xCB, 0x1E]
  | .rrIX d => [0xDD, 0xCB, d, 0x1E]
  | .rrIY d => [0xFD, 0xCB, d, 0x1E]
  | .rld => [0xED, 0x6F]
  | .rrd => [0xED, 0x67]
  | .slaReg r => [0xCB, opByte 0b00 0b100 r.code]
  | .slaHL => [0xCB, 0x26]
  | .slaIX d => [0xDD, 0xCB, d, 0x26]
  | .slaIY d => [0xFD, 0xCB, d, 0x26]
  | .sraReg r => [0xCB, opByte 0b00 0b101 r.code]
  | .sraHL => [0xCB, 0x2E]
  | .sraIX d => [0xDD, 0xCB, d, 0x2E]
  | .sraIY d => [0xFD, 0xCB, d, 0x2E]
  | .srlReg r => [0xCB, opByte 0b00 0b111 r.code]
  | .srlHL => [0xCB, 0x3E]
  | .srlIX d => [0xDD, 0xCB, d, 0x3E]
  | .srlIY d => [0xFD, 0xCB, d, 0x3E]
  | .bitReg b r => [0xCB, opByte 0b01 b r.code]
  | .bitHL b => [0xCB, opByte 0b01 b 0b110]
  | .bitIX b d => [0xDD, 0xCB, d, opByte 0b01 b 0b110]
  | .bitIY b d => [0xFD, 0xCB, d, opByte 0b01 b 0b110]
  | .setReg b r => [0xCB, opByte 0b11 b r.code]
  | .setHL b => [0xCB, opByte 0b11 b 0b110]
  | .setIX b d => [0xDD, 0xCB, d, opByte 0b11 b 0b110]
  | .setIY b d => [0xFD, 0xCB, d, opByte 0b11 b 0b110]
  | .resReg b r => [0xCB, opByte 0b10 b r.code]
  | .resHL b => [0xCB, opByte 0b10 b 0b110]
  | .resIX b d => [0xDD, 0xCB, d, opByte 0b10 b 0b110]
  | .resIY b d => [0xFD, 0xCB, d, opByte 0b10 b 0b110]
  | .inAImm n => [0xDB, n]
  | .inRegC r => [0xED, opByte 0b01 r.code 0b000]
  | .outImmA n => [0xD3, n]
  | .outCReg r => [0xED, opByte 0b01 r.code 0b001]

/-! ## The table's words -/

/-- The `count` bytes of a number whose FIRST byte is the most significant, as opcode_table.json numbers `match`,
`mask` and `fixed` (30_encoding.md R102). -/
def bytesFirstHigh : Nat → Nat → List Byte
  | 0, _ => []
  | count + 1, w => BitVec.ofNat 8 (w / 256 ^ count) :: bytesFirstHigh count w

/-- The `count` bytes of a number whose FIRST byte is the least significant. -/
def bytesFirstLow : Nat → Nat → List Byte
  | 0, _ => []
  | count + 1, w => BitVec.ofNat 8 w :: bytesFirstLow count (w / 256)

/-- The longest instruction, in bytes (30_encoding.md R80). -/
def maxLength : Nat := 4

/-- The bytes are one whole instruction and nothing more. -/
def isOneInstr (bytes : List Byte) : Bool :=
  match decode bytes with
  | .ok (_, []) => true
  | .ok (_, _ :: _) => false
  | .error _ => false

/-- The bytes, in address order, of an instruction whose table bits are `w`. The table's own numbering puts the first
byte highest (30_encoding.md R102); where that reading is not one whole instruction and the reading with the first
byte lowest is, the latter is taken. Above the table's bits every byte is zero. DESIGN CHOICE, safe: no meaning
depends on it; log 16. -/
def tableBytes (nbits w : Nat) : List Byte :=
  let count := (nbits + 7) / 8
  let high := bytesFirstHigh count w
  let low := bytesFirstLow count w
  let bytes := if isOneInstr high then high else if isOneInstr low then low else high
  bytes ++ List.replicate (maxLength - count) 0

/-- The instruction the decoder reads from an instruction whose table bits are `w`, or none where it refuses. -/
def decodeTableWord (nbits w : Nat) : Option Instr :=
  match decode (tableBytes nbits w) with
  | .ok (i, _) => some i
  | .error _ => none

end Sys2Proof
end

