-- ==== Sys2Proof/Machine/Fetch.lean ====
section
/-! DEFINITION. Fetching an instruction: its bytes one at a time, in address order, and only as many as decoding needs
(20_memory.md R63, R68; 30_encoding.md R91). -/

namespace Sys2Proof.Machine

/-- What a fetch answers: the instruction, or the fault that ends the run. -/
abbrev Fetched := Except Fault Instr

/-- Goes on fetching with `bytes` already fetched from pc upward, for at most `fuel` bytes more. A byte the platform
does not define is the platform fault (60_exceptions.md R402), and bytes that match no row are the undefined opcode
(R401). The fault a fetch meets first is the one reported (R409). -/
def State.fetchFrom (s : State) (bytes : List Byte) (fuel : Nat) : Fetched :=
  match decode bytes with
  | .ok (i, _) => .ok i
  | .error .undefinedOpcode => .error (.undefinedOpcode s.pc bytes)
  | .error .incomplete =>
    match fuel with
    | 0 => .error (.undefinedOpcode s.pc bytes)
    | fuel + 1 =>
      let a := s.pc + BitVec.ofNat 16 bytes.length
      if s.canAccess a then s.fetchFrom (bytes ++ [s.peek a]) fuel
      else .error (.platformFault (.fetch a) s.mem)

/-- Fetches and decodes the instruction at pc; no instruction is longer than four bytes (30_encoding.md R80). -/
def State.fetchInstr (s : State) : Fetched := s.fetchFrom [] maxLength

/-- The bytes stored from an address upward, mod 2^16, whatever the memory map says: how a host places an image
(20_memory.md R51, R62). -/
def State.placeBytes (s : State) (a : Word) (bytes : List Byte) : State :=
  match bytes with
  | [] => s
  | v :: rest => ({ s with mem := s.mem.write a v }).placeBytes (a + 1) rest

/-- Every one of `count` addresses from `a` upward can be read. -/
def State.canAccessAll (s : State) (a : Word) : Nat → Bool
  | 0 => true
  | count + 1 => s.canAccess a && s.canAccessAll (a + 1) count

end Sys2Proof.Machine
end

