-- ==== Sys2Proof/Machine/Step.lean ====
section
/-! DEFINITION. One step of the machine (60_exceptions.md R420), and the state whose next step runs a given
instruction. -/

namespace Sys2Proof.Machine

/-- One step (60_exceptions.md R420): a reset if it is asserted; else the entry of an accepted interrupt; else, halted,
nothing but the passing of the boundary; else one whole instruction. -/
def step (s : State) : Host.Outcome State Fault Refusal :=
  if s.resetRequested then .next s.tick.applyReset
  else if s.interruptAccepted then s.tick.interruptEntry
  else if s.halted then .next s.tick
  else
    match s.tick.fetchInstr with
    | .error fault => .fault fault
    | .ok i => exec i s.tick

/-- The state with the instruction of the table's bits `w` stored at pc, where step fetches next. Beside memory it
changes only what would keep step from that fetch: a halt, a reset or an interrupt due at this boundary, or a memory
map that does not let the four bytes be read (log 17). -/
def State.withFetchWord (s : State) (nbits w : Nat) : State :=
  let t := s.placeBytes s.pc (tableBytes nbits w)
  { t with
    halted := false
    inhibit := t.inhibit || t.interruptAccepted
    platform :=
      { t.platform with
        resetReq := if t.resetRequested then [] else t.platform.resetReq
        regions := if t.canAccessAll t.pc maxLength then t.platform.regions else [] } }

end Sys2Proof.Machine
end

