-- ==== Sys2Proof/Machine/Timing.lean ====
section
/-! DEFINITION. The source's columns Bytes, M Cycles and Clock Cycles (70_reset_and_hazards.md R457), recorded for
every row. No behaviour depends on them (R456; decision D19, log 34): the step function does not use this file. -/

namespace Sys2Proof.Machine

/-- The three timing columns of a row (70_reset_and_hazards.md R456). -/
structure Timing where
  bytes : Nat
  mCycles : Nat
  clockCycles : Nat
  deriving DecidableEq, Repr

/-- The columns of every row (70_reset_and_hazards.md R457). `taken` says whether the condition of a CALL cc or a RET cc
holds; the timing of no other row depends on data (R458). -/
def timing (taken : Bool) : Instr → Timing
  | .ldRegReg _ _ => ⟨1, 1, 4⟩
  | .ldRegImm _ _ => ⟨2, 2, 7⟩
  | .ldRegHL _ => ⟨1, 2, 7⟩
  | .ldRegIX _ _ => ⟨3, 5, 19⟩
  | .ldRegIY _ _ => ⟨3, 5, 19⟩
  | .ldHLReg _ => ⟨1, 2, 7⟩
  | .ldIXReg _ _ => ⟨3, 5, 19⟩
  | .ldIYReg _ _ => ⟨3, 5, 19⟩
  | .ldHLImm _ => ⟨2, 3, 10⟩
  | .ldIXImm _ _ => ⟨4, 5, 19⟩
  | .ldIYImm _ _ => ⟨4, 5, 19⟩
  | .ldABC => ⟨1, 2, 7⟩
  | .ldADE => ⟨1, 2, 7⟩
  | .ldAMem _ => ⟨3, 4, 13⟩
  | .ldBCA => ⟨1, 2, 7⟩
  | .ldDEA => ⟨1, 2, 7⟩
  | .ldMemA _ => ⟨3, 4, 13⟩
  | .ldPairImm _ _ => ⟨3, 3, 10⟩
  | .ldIXImm16 _ => ⟨4, 4, 14⟩
  | .ldIYImm16 _ => ⟨4, 4, 14⟩
  | .ldHLMem _ => ⟨3, 5, 16⟩
  | .ldPairMem _ _ => ⟨4, 6, 20⟩
  | .ldIXMem _ => ⟨4, 6, 20⟩
  | .ldIYMem _ => ⟨4, 6, 20⟩
  | .ldMemHL _ => ⟨3, 5, 16⟩
  | .ldMemPair _ _ => ⟨4, 6, 20⟩
  | .ldMemIX _ => ⟨4, 6, 20⟩
  | .ldMemIY _ => ⟨4, 6, 20⟩
  | .ldSPHL => ⟨1, 1, 6⟩
  | .ldSPIX => ⟨2, 2, 10⟩
  | .ldSPIY => ⟨2, 2, 10⟩
  | .exDEHL => ⟨1, 1, 4⟩
  | .exSPHL => ⟨1, 5, 19⟩
  | .pushPair _ => ⟨1, 3, 11⟩
  | .pushIX => ⟨2, 4, 15⟩
  | .pushIY => ⟨2, 4, 15⟩
  | .popPair _ => ⟨1, 3, 10⟩
  | .popIX => ⟨2, 4, 14⟩
  | .popIY => ⟨2, 4, 14⟩
  | .addAReg _ => ⟨1, 1, 4⟩
  | .addAImm _ => ⟨2, 2, 7⟩
  | .addAHL => ⟨1, 2, 7⟩
  | .addAIX _ => ⟨3, 5, 19⟩
  | .addAIY _ => ⟨3, 5, 19⟩
  | .adcAReg _ => ⟨1, 1, 4⟩
  | .adcAImm _ => ⟨2, 2, 7⟩
  | .adcAHL => ⟨1, 2, 7⟩
  | .adcAIX _ => ⟨3, 5, 19⟩
  | .adcAIY _ => ⟨3, 5, 19⟩
  | .subAReg _ => ⟨1, 1, 4⟩
  | .subAImm _ => ⟨2, 2, 7⟩
  | .subAHL => ⟨1, 2, 7⟩
  | .subAIX _ => ⟨3, 5, 19⟩
  | .subAIY _ => ⟨3, 5, 19⟩
  | .sbcAReg _ => ⟨1, 1, 4⟩
  | .sbcAImm _ => ⟨2, 2, 7⟩
  | .sbcAHL => ⟨1, 2, 7⟩
  | .sbcAIX _ => ⟨3, 5, 19⟩
  | .sbcAIY _ => ⟨3, 5, 19⟩
  | .cpAReg _ => ⟨1, 1, 4⟩
  | .cpAImm _ => ⟨2, 2, 7⟩
  | .cpAHL => ⟨1, 2, 7⟩
  | .cpAIX _ => ⟨3, 5, 19⟩
  | .cpAIY _ => ⟨3, 5, 19⟩
  | .andAReg _ => ⟨1, 1, 4⟩
  | .andAImm _ => ⟨2, 2, 7⟩
  | .andAHL => ⟨1, 2, 7⟩
  | .andAIX _ => ⟨3, 5, 19⟩
  | .andAIY _ => ⟨3, 5, 19⟩
  | .orAReg _ => ⟨1, 1, 4⟩
  | .orAImm _ => ⟨2, 2, 7⟩
  | .orAHL => ⟨1, 2, 7⟩
  | .orAIX _ => ⟨3, 5, 19⟩
  | .orAIY _ => ⟨3, 5, 19⟩
  | .xorAReg _ => ⟨1, 1, 4⟩
  | .xorAImm _ => ⟨2, 2, 7⟩
  | .xorAHL => ⟨1, 2, 7⟩
  | .xorAIX _ => ⟨3, 5, 19⟩
  | .xorAIY _ => ⟨3, 5, 19⟩
  | .incReg _ => ⟨1, 1, 4⟩
  | .incHL => ⟨1, 3, 11⟩
  | .incIX _ => ⟨3, 6, 23⟩
  | .incIY _ => ⟨3, 6, 23⟩
  | .decReg _ => ⟨1, 1, 4⟩
  | .decHL => ⟨1, 3, 11⟩
  | .decIX _ => ⟨3, 6, 23⟩
  | .decIY _ => ⟨3, 6, 23⟩
  | .daa => ⟨1, 1, 4⟩
  | .cpl => ⟨1, 1, 4⟩
  | .neg => ⟨2, 2, 8⟩
  | .addHLPair _ => ⟨1, 3, 11⟩
  | .adcHLPair _ => ⟨2, 4, 15⟩
  | .sbcHLPair _ => ⟨2, 4, 15⟩
  | .addIXPair _ => ⟨2, 4, 15⟩
  | .addIYPair _ => ⟨2, 4, 15⟩
  | .incPair _ => ⟨1, 1, 6⟩
  | .incIX16 => ⟨2, 2, 10⟩
  | .incIY16 => ⟨2, 2, 10⟩
  | .decPair _ => ⟨1, 1, 6⟩
  | .decIX16 => ⟨2, 2, 10⟩
  | .decIY16 => ⟨2, 2, 10⟩
  | .ccf => ⟨1, 1, 4⟩
  | .scf => ⟨1, 1, 4⟩
  | .nop => ⟨1, 1, 4⟩
  | .halt => ⟨1, 1, 4⟩
  | .di => ⟨1, 1, 4⟩
  | .ei => ⟨1, 1, 4⟩
  | .jp _ => ⟨3, 3, 10⟩
  | .jpCond _ _ => ⟨3, 3, 10⟩
  | .jpHL => ⟨1, 1, 4⟩
  | .jpIX => ⟨2, 2, 8⟩
  | .jpIY => ⟨2, 2, 8⟩
  | .call _ => ⟨3, 5, 17⟩
  | .callCond _ _ => if taken then ⟨3, 5, 17⟩ else ⟨3, 3, 10⟩
  | .ret => ⟨1, 3, 10⟩
  | .retCond _ => if taken then ⟨1, 3, 11⟩ else ⟨1, 1, 5⟩
  | .rst _ => ⟨1, 3, 11⟩
  | .rlca => ⟨1, 1, 4⟩
  | .rla => ⟨1, 1, 4⟩
  | .rrca => ⟨1, 1, 4⟩
  | .rra => ⟨1, 1, 4⟩
  | .rlcReg _ => ⟨2, 2, 8⟩
  | .rlcHL => ⟨2, 4, 15⟩
  | .rlcIX _ => ⟨4, 6, 23⟩
  | .rlcIY _ => ⟨4, 6, 23⟩
  | .rlReg _ => ⟨2, 2, 8⟩
  | .rlHL => ⟨2, 4, 15⟩
  | .rlIX _ => ⟨4, 6, 23⟩
  | .rlIY _ => ⟨4, 6, 23⟩
  | .rrcReg _ => ⟨2, 2, 8⟩
  | .rrcHL => ⟨2, 4, 15⟩
  | .rrcIX _ => ⟨4, 6, 23⟩
  | .rrcIY _ => ⟨4, 6, 23⟩
  | .rrReg _ => ⟨2, 2, 8⟩
  | .rrHL => ⟨2, 4, 15⟩
  | .rrIX _ => ⟨4, 6, 23⟩
  | .rrIY _ => ⟨4, 6, 23⟩
  | .rld => ⟨2, 5, 18⟩
  | .rrd => ⟨2, 5, 18⟩
  | .slaReg _ => ⟨2, 2, 8⟩
  | .slaHL => ⟨2, 4, 15⟩
  | .slaIX _ => ⟨4, 6, 23⟩
  | .slaIY _ => ⟨4, 6, 23⟩
  | .sraReg _ => ⟨2, 2, 8⟩
  | .sraHL => ⟨2, 4, 15⟩
  | .sraIX _ => ⟨4, 6, 23⟩
  | .sraIY _ => ⟨4, 6, 23⟩
  | .srlReg _ => ⟨2, 2, 8⟩
  | .srlHL => ⟨2, 4, 15⟩
  | .srlIX _ => ⟨4, 6, 23⟩
  | .srlIY _ => ⟨4, 6, 23⟩
  | .bitReg _ _ => ⟨2, 2, 8⟩
  | .bitHL _ => ⟨2, 3, 12⟩
  | .bitIX _ _ => ⟨4, 5, 20⟩
  | .bitIY _ _ => ⟨4, 5, 20⟩
  | .setReg _ _ => ⟨2, 2, 8⟩
  | .setHL _ => ⟨2, 4, 15⟩
  | .setIX _ _ => ⟨4, 6, 23⟩
  | .setIY _ _ => ⟨4, 6, 23⟩
  | .resReg _ _ => ⟨2, 2, 8⟩
  | .resHL _ => ⟨2, 4, 15⟩
  | .resIX _ _ => ⟨4, 6, 23⟩
  | .resIY _ _ => ⟨4, 6, 23⟩
  | .inAImm _ => ⟨2, 3, 11⟩
  | .inRegC _ => ⟨2, 3, 12⟩
  | .outImmA _ => ⟨2, 3, 11⟩
  | .outCReg _ => ⟨2, 3, 12⟩

end Sys2Proof.Machine
end

