-- ==== Sys2Proof/WellFormed.lean ====
section
/-! DEFINITION. Which instruction terms stand for an instruction of the hardware. Only RST has an operand whose type
holds more values than the encoding: its address must be one of the eight of 30_encoding.md R86. -/

namespace Sys2Proof

/-- The eight addresses RST can name, for t = 000 to 111 (30_encoding.md R86). -/
def restartAddresses : List Word :=
  [0x0000, 0x0008, 0x0010, 0x0018, 0x0020, 0x0028, 0x0030, 0x0038]

/-- The check of each instruction's operands: only `RST p` needs one (30_encoding.md R86); every value of every other
operand has an encoding (30_encoding.md R82 to R89, R97). -/
def Instr.isWellFormed : Instr → Bool
  | .rst p => restartAddresses.contains p
  | .ldRegReg _ _ => true
  | .ldRegImm _ _ => true
  | .ldRegHL _ => true
  | .ldRegIX _ _ => true
  | .ldRegIY _ _ => true
  | .ldHLReg _ => true
  | .ldIXReg _ _ => true
  | .ldIYReg _ _ => true
  | .ldHLImm _ => true
  | .ldIXImm _ _ => true
  | .ldIYImm _ _ => true
  | .ldABC => true
  | .ldADE => true
  | .ldAMem _ => true
  | .ldBCA => true
  | .ldDEA => true
  | .ldMemA _ => true
  | .ldPairImm _ _ => true
  | .ldIXImm16 _ => true
  | .ldIYImm16 _ => true
  | .ldHLMem _ => true
  | .ldPairMem _ _ => true
  | .ldIXMem _ => true
  | .ldIYMem _ => true
  | .ldMemHL _ => true
  | .ldMemPair _ _ => true
  | .ldMemIX _ => true
  | .ldMemIY _ => true
  | .ldSPHL => true
  | .ldSPIX => true
  | .ldSPIY => true
  | .exDEHL => true
  | .exSPHL => true
  | .pushPair _ => true
  | .pushIX => true
  | .pushIY => true
  | .popPair _ => true
  | .popIX => true
  | .popIY => true
  | .addAReg _ => true
  | .addAImm _ => true
  | .addAHL => true
  | .addAIX _ => true
  | .addAIY _ => true
  | .adcAReg _ => true
  | .adcAImm _ => true
  | .adcAHL => true
  | .adcAIX _ => true
  | .adcAIY _ => true
  | .subAReg _ => true
  | .subAImm _ => true
  | .subAHL => true
  | .subAIX _ => true
  | .subAIY _ => true
  | .sbcAReg _ => true
  | .sbcAImm _ => true
  | .sbcAHL => true
  | .sbcAIX _ => true
  | .sbcAIY _ => true
  | .cpAReg _ => true
  | .cpAImm _ => true
  | .cpAHL => true
  | .cpAIX _ => true
  | .cpAIY _ => true
  | .andAReg _ => true
  | .andAImm _ => true
  | .andAHL => true
  | .andAIX _ => true
  | .andAIY _ => true
  | .orAReg _ => true
  | .orAImm _ => true
  | .orAHL => true
  | .orAIX _ => true
  | .orAIY _ => true
  | .xorAReg _ => true
  | .xorAImm _ => true
  | .xorAHL => true
  | .xorAIX _ => true
  | .xorAIY _ => true
  | .incReg _ => true
  | .incHL => true
  | .incIX _ => true
  | .incIY _ => true
  | .decReg _ => true
  | .decHL => true
  | .decIX _ => true
  | .decIY _ => true
  | .daa => true
  | .cpl => true
  | .neg => true
  | .addHLPair _ => true
  | .adcHLPair _ => true
  | .sbcHLPair _ => true
  | .addIXPair _ => true
  | .addIYPair _ => true
  | .incPair _ => true
  | .incIX16 => true
  | .incIY16 => true
  | .decPair _ => true
  | .decIX16 => true
  | .decIY16 => true
  | .ccf => true
  | .scf => true
  | .nop => true
  | .halt => true
  | .di => true
  | .ei => true
  | .jp _ => true
  | .jpCond _ _ => true
  | .jpHL => true
  | .jpIX => true
  | .jpIY => true
  | .call _ => true
  | .callCond _ _ => true
  | .ret => true
  | .retCond _ => true
  | .rlca => true
  | .rla => true
  | .rrca => true
  | .rra => true
  | .rlcReg _ => true
  | .rlcHL => true
  | .rlcIX _ => true
  | .rlcIY _ => true
  | .rlReg _ => true
  | .rlHL => true
  | .rlIX _ => true
  | .rlIY _ => true
  | .rrcReg _ => true
  | .rrcHL => true
  | .rrcIX _ => true
  | .rrcIY _ => true
  | .rrReg _ => true
  | .rrHL => true
  | .rrIX _ => true
  | .rrIY _ => true
  | .rld => true
  | .rrd => true
  | .slaReg _ => true
  | .slaHL => true
  | .slaIX _ => true
  | .slaIY _ => true
  | .sraReg _ => true
  | .sraHL => true
  | .sraIX _ => true
  | .sraIY _ => true
  | .srlReg _ => true
  | .srlHL => true
  | .srlIX _ => true
  | .srlIY _ => true
  | .bitReg _ _ => true
  | .bitHL _ => true
  | .bitIX _ _ => true
  | .bitIY _ _ => true
  | .setReg _ _ => true
  | .setHL _ => true
  | .setIX _ _ => true
  | .setIY _ _ => true
  | .resReg _ _ => true
  | .resHL _ => true
  | .resIX _ _ => true
  | .resIY _ _ => true
  | .inAImm _ => true
  | .inRegC _ => true
  | .outImmA _ => true
  | .outCReg _ => true

/-- The instruction's operands all have an encoding. -/
abbrev Instr.WellFormed (i : Instr) : Prop := i.isWellFormed = true

end Sys2Proof
end

