-- ==== Sys2Proof/Safety.lean ====
section
/-! DEFINITION. What a safe run is, in the words the statements use: the invariant, the accesses an instruction makes,
what a state's platform serves, what an instruction may write, and the shapes of an answer. -/

namespace Sys2Proof.Machine

/-! ## The invariant -/

/-- What every step keeps: memory is in its canonical form, and no state is halted and in the shadow of DI or EI at
once (60_exceptions.md R418: HALT, like every instruction other than DI and EI, clears inhibit). -/
def State.Inv (s : State) : Prop := s.mem.wf = true ∧ ¬(s.halted = true ∧ s.inhibit = true)

/-! ## What a step does first (60_exceptions.md R420) -/

/-- The next step executes an instruction: no reset, no interrupt accepted, not halted. -/
def State.executes (s : State) : Bool := !s.resetRequested && !s.interruptAccepted && !s.halted

/-- Memory can be read at `a` and upward and holds the given bytes there. -/
def State.holds (s : State) (a : Word) : List Byte → Bool
  | [] => true
  | v :: rest => s.canAccess a && s.peek a == v && s.holds (a + 1) rest

/-! ## Accesses (20_memory.md R67, 60_exceptions.md R402) -/

/-- The platform defines the access. -/
def State.serves (s : State) : Access → Bool
  | .fetch a => s.canAccess a
  | .memRead a => s.canAccess a
  | .memWrite a => s.canAccess a
  | .ioRead port => s.canUsePort port
  | .ioWrite port => s.canUsePort port

/-- The read of a byte operand. -/
def State.readsOf (s : State) : Place → List Access
  | .reg _ => []
  | .mem m => [.memRead (s.address m)]

/-- The write of a byte operand. -/
def State.writesOf (s : State) : Place → List Access
  | .reg _ => []
  | .mem m => [.memWrite (s.address m)]

/-- The two reads at `a` of a 16-bit value. -/
def reads16 (a : Word) : List Access := [.memRead a, .memRead (a + 1)]

/-- The two writes at `a` of a 16-bit value. -/
def writes16 (a : Word) : List Access := [.memWrite a, .memWrite (a + 1)]

/-- The two writes of a push (20_memory.md R59). -/
def State.pushes (s : State) : List Access := [.memWrite (s.sp - 1), .memWrite (s.sp - 2)]

/-- The two reads of a pop (20_memory.md R59). -/
def State.pops (s : State) : List Access := [.memRead s.sp, .memRead (s.sp + 1)]

/-- The accesses an instruction makes beside the fetch of its bytes, in the order of its rule's pseudocode
(20_memory.md R63, R67). -/
def dataAccesses (i : Instr) (s : State) : List Access :=
  match i with
  | .ldRegReg _ _ => []
  | .ldRegImm _ _ => []
  | .ldRegHL _ => s.readsOf (.mem .atHL)
  | .ldRegIX _ d => s.readsOf (.mem (.atIX d))
  | .ldRegIY _ d => s.readsOf (.mem (.atIY d))
  | .ldHLReg _ => s.writesOf (.mem .atHL)
  | .ldIXReg d _ => s.writesOf (.mem (.atIX d))
  | .ldIYReg d _ => s.writesOf (.mem (.atIY d))
  | .ldHLImm _ => s.writesOf (.mem .atHL)
  | .ldIXImm d _ => s.writesOf (.mem (.atIX d))
  | .ldIYImm d _ => s.writesOf (.mem (.atIY d))
  | .ldABC => s.readsOf (.mem .atBC)
  | .ldADE => s.readsOf (.mem .atDE)
  | .ldAMem nn => s.readsOf (.mem (.atAddr nn))
  | .ldBCA => s.writesOf (.mem .atBC)
  | .ldDEA => s.writesOf (.mem .atDE)
  | .ldMemA nn => s.writesOf (.mem (.atAddr nn))
  | .ldPairImm _ _ => []
  | .ldIXImm16 _ => []
  | .ldIYImm16 _ => []
  | .ldHLMem nn => reads16 nn
  | .ldPairMem _ nn => reads16 nn
  | .ldIXMem nn => reads16 nn
  | .ldIYMem nn => reads16 nn
  | .ldMemHL nn => writes16 nn
  | .ldMemPair nn _ => writes16 nn
  | .ldMemIX nn => writes16 nn
  | .ldMemIY nn => writes16 nn
  | .ldSPHL => []
  | .ldSPIX => []
  | .ldSPIY => []
  | .exDEHL => []
  | .exSPHL => s.pops ++ [.memWrite (s.sp + 1), .memWrite s.sp]
  | .pushPair _ => s.pushes
  | .pushIX => s.pushes
  | .pushIY => s.pushes
  | .popPair _ => s.pops
  | .popIX => s.pops
  | .popIY => s.pops
  | .addAReg _ => []
  | .addAImm _ => []
  | .addAHL => s.readsOf (.mem .atHL)
  | .addAIX d => s.readsOf (.mem (.atIX d))
  | .addAIY d => s.readsOf (.mem (.atIY d))
  | .adcAReg _ => []
  | .adcAImm _ => []
  | .adcAHL => s.readsOf (.mem .atHL)
  | .adcAIX d => s.readsOf (.mem (.atIX d))
  | .adcAIY d => s.readsOf (.mem (.atIY d))
  | .subAReg _ => []
  | .subAImm _ => []
  | .subAHL => s.readsOf (.mem .atHL)
  | .subAIX d => s.readsOf (.mem (.atIX d))
  | .subAIY d => s.readsOf (.mem (.atIY d))
  | .sbcAReg _ => []
  | .sbcAImm _ => []
  | .sbcAHL => s.readsOf (.mem .atHL)
  | .sbcAIX d => s.readsOf (.mem (.atIX d))
  | .sbcAIY d => s.readsOf (.mem (.atIY d))
  | .cpAReg _ => []
  | .cpAImm _ => []
  | .cpAHL => s.readsOf (.mem .atHL)
  | .cpAIX d => s.readsOf (.mem (.atIX d))
  | .cpAIY d => s.readsOf (.mem (.atIY d))
  | .andAReg _ => []
  | .andAImm _ => []
  | .andAHL => s.readsOf (.mem .atHL)
  | .andAIX d => s.readsOf (.mem (.atIX d))
  | .andAIY d => s.readsOf (.mem (.atIY d))
  | .orAReg _ => []
  | .orAImm _ => []
  | .orAHL => s.readsOf (.mem .atHL)
  | .orAIX d => s.readsOf (.mem (.atIX d))
  | .orAIY d => s.readsOf (.mem (.atIY d))
  | .xorAReg _ => []
  | .xorAImm _ => []
  | .xorAHL => s.readsOf (.mem .atHL)
  | .xorAIX d => s.readsOf (.mem (.atIX d))
  | .xorAIY d => s.readsOf (.mem (.atIY d))
  | .incReg _ => []
  | .incHL => s.readsOf (.mem .atHL) ++ s.writesOf (.mem .atHL)
  | .incIX d => s.readsOf (.mem (.atIX d)) ++ s.writesOf (.mem (.atIX d))
  | .incIY d => s.readsOf (.mem (.atIY d)) ++ s.writesOf (.mem (.atIY d))
  | .decReg _ => []
  | .decHL => s.readsOf (.mem .atHL) ++ s.writesOf (.mem .atHL)
  | .decIX d => s.readsOf (.mem (.atIX d)) ++ s.writesOf (.mem (.atIX d))
  | .decIY d => s.readsOf (.mem (.atIY d)) ++ s.writesOf (.mem (.atIY d))
  | .daa => []
  | .cpl => []
  | .neg => []
  | .addHLPair _ => []
  | .adcHLPair _ => []
  | .sbcHLPair _ => []
  | .addIXPair _ => []
  | .addIYPair _ => []
  | .incPair _ => []
  | .incIX16 => []
  | .incIY16 => []
  | .decPair _ => []
  | .decIX16 => []
  | .decIY16 => []
  | .ccf => []
  | .scf => []
  | .nop => []
  | .halt => []
  | .di => []
  | .ei => []
  | .jp _ => []
  | .jpCond _ _ => []
  | .jpHL => []
  | .jpIX => []
  | .jpIY => []
  | .call _ => s.pushes
  | .callCond cc _ => if s.flags.holds cc then s.pushes else []
  | .ret => s.pops
  | .retCond cc => if s.flags.holds cc then s.pops else []
  | .rst _ => s.pushes
  | .rlca => []
  | .rla => []
  | .rrca => []
  | .rra => []
  | .rlcReg _ => []
  | .rlcHL => s.readsOf (.mem .atHL) ++ s.writesOf (.mem .atHL)
  | .rlcIX d => s.readsOf (.mem (.atIX d)) ++ s.writesOf (.mem (.atIX d))
  | .rlcIY d => s.readsOf (.mem (.atIY d)) ++ s.writesOf (.mem (.atIY d))
  | .rlReg _ => []
  | .rlHL => s.readsOf (.mem .atHL) ++ s.writesOf (.mem .atHL)
  | .rlIX d => s.readsOf (.mem (.atIX d)) ++ s.writesOf (.mem (.atIX d))
  | .rlIY d => s.readsOf (.mem (.atIY d)) ++ s.writesOf (.mem (.atIY d))
  | .rrcReg _ => []
  | .rrcHL => s.readsOf (.mem .atHL) ++ s.writesOf (.mem .atHL)
  | .rrcIX d => s.readsOf (.mem (.atIX d)) ++ s.writesOf (.mem (.atIX d))
  | .rrcIY d => s.readsOf (.mem (.atIY d)) ++ s.writesOf (.mem (.atIY d))
  | .rrReg _ => []
  | .rrHL => s.readsOf (.mem .atHL) ++ s.writesOf (.mem .atHL)
  | .rrIX d => s.readsOf (.mem (.atIX d)) ++ s.writesOf (.mem (.atIX d))
  | .rrIY d => s.readsOf (.mem (.atIY d)) ++ s.writesOf (.mem (.atIY d))
  | .rld => s.readsOf (.mem .atHL) ++ s.writesOf (.mem .atHL)
  | .rrd => s.readsOf (.mem .atHL) ++ s.writesOf (.mem .atHL)
  | .slaReg _ => []
  | .slaHL => s.readsOf (.mem .atHL) ++ s.writesOf (.mem .atHL)
  | .slaIX d => s.readsOf (.mem (.atIX d)) ++ s.writesOf (.mem (.atIX d))
  | .slaIY d => s.readsOf (.mem (.atIY d)) ++ s.writesOf (.mem (.atIY d))
  | .sraReg _ => []
  | .sraHL => s.readsOf (.mem .atHL) ++ s.writesOf (.mem .atHL)
  | .sraIX d => s.readsOf (.mem (.atIX d)) ++ s.writesOf (.mem (.atIX d))
  | .sraIY d => s.readsOf (.mem (.atIY d)) ++ s.writesOf (.mem (.atIY d))
  | .srlReg _ => []
  | .srlHL => s.readsOf (.mem .atHL) ++ s.writesOf (.mem .atHL)
  | .srlIX d => s.readsOf (.mem (.atIX d)) ++ s.writesOf (.mem (.atIX d))
  | .srlIY d => s.readsOf (.mem (.atIY d)) ++ s.writesOf (.mem (.atIY d))
  | .bitReg _ _ => []
  | .bitHL _ => s.readsOf (.mem .atHL)
  | .bitIX _ d => s.readsOf (.mem (.atIX d))
  | .bitIY _ d => s.readsOf (.mem (.atIY d))
  | .setReg _ _ => []
  | .setHL _ => s.readsOf (.mem .atHL) ++ s.writesOf (.mem .atHL)
  | .setIX _ d => s.readsOf (.mem (.atIX d)) ++ s.writesOf (.mem (.atIX d))
  | .setIY _ d => s.readsOf (.mem (.atIY d)) ++ s.writesOf (.mem (.atIY d))
  | .resReg _ _ => []
  | .resHL _ => s.readsOf (.mem .atHL) ++ s.writesOf (.mem .atHL)
  | .resIX _ d => s.readsOf (.mem (.atIX d)) ++ s.writesOf (.mem (.atIX d))
  | .resIY _ d => s.readsOf (.mem (.atIY d)) ++ s.writesOf (.mem (.atIY d))
  | .inAImm n => [.ioRead n]
  | .inRegC _ => [.ioRead s.regs.c]
  | .outImmA n => [.ioWrite n]
  | .outCReg _ => [.ioWrite s.regs.c]

/-- The addresses an instruction stores to, in order. -/
def storeAddresses (i : Instr) (s : State) : List Word :=
  (dataAccesses i s).filterMap fun
    | .memWrite a => some a
    | .fetch _ | .memRead _ | .ioRead _ | .ioWrite _ => none

/-- The ports an instruction reads. -/
def portReads (i : Instr) (s : State) : List Byte :=
  (dataAccesses i s).filterMap fun
    | .ioRead p => some p
    | .fetch _ | .memRead _ | .memWrite _ | .ioWrite _ => none

/-- The ports an instruction writes. -/
def portWrites (i : Instr) (s : State) : List Byte :=
  (dataAccesses i s).filterMap fun
    | .ioWrite p => some p
    | .fetch _ | .memRead _ | .memWrite _ | .ioRead _ => none

/-! ## Which flags an instruction writes (10_state.md R34) -/

/-- No flag. -/
def noFlags : Flags := ⟨false, false, false, false, false, false⟩

/-- All six flags. -/
def allFlags : Flags := ⟨true, true, true, true, true, true⟩

/-- The flags an instruction's row lets it write, as a record of yes and no (10_state.md R34). -/
def flagsWritten (i : Instr) : Flags :=
  match i with
  | .ldRegReg _ _ => noFlags
  | .ldRegImm _ _ => noFlags
  | .ldRegHL _ => noFlags
  | .ldRegIX _ _ => noFlags
  | .ldRegIY _ _ => noFlags
  | .ldHLReg _ => noFlags
  | .ldIXReg _ _ => noFlags
  | .ldIYReg _ _ => noFlags
  | .ldHLImm _ => noFlags
  | .ldIXImm _ _ => noFlags
  | .ldIYImm _ _ => noFlags
  | .ldABC => noFlags
  | .ldADE => noFlags
  | .ldAMem _ => noFlags
  | .ldBCA => noFlags
  | .ldDEA => noFlags
  | .ldMemA _ => noFlags
  | .ldPairImm _ _ => noFlags
  | .ldIXImm16 _ => noFlags
  | .ldIYImm16 _ => noFlags
  | .ldHLMem _ => noFlags
  | .ldPairMem _ _ => noFlags
  | .ldIXMem _ => noFlags
  | .ldIYMem _ => noFlags
  | .ldMemHL _ => noFlags
  | .ldMemPair _ _ => noFlags
  | .ldMemIX _ => noFlags
  | .ldMemIY _ => noFlags
  | .ldSPHL => noFlags
  | .ldSPIX => noFlags
  | .ldSPIY => noFlags
  | .exDEHL => noFlags
  | .exSPHL => noFlags
  | .pushPair _ => noFlags
  | .pushIX => noFlags
  | .pushIY => noFlags
  | .popPair qq => if qq = .af then allFlags else noFlags
  | .popIX => noFlags
  | .popIY => noFlags
  | .addAReg _ => allFlags
  | .addAImm _ => allFlags
  | .addAHL => allFlags
  | .addAIX _ => allFlags
  | .addAIY _ => allFlags
  | .adcAReg _ => allFlags
  | .adcAImm _ => allFlags
  | .adcAHL => allFlags
  | .adcAIX _ => allFlags
  | .adcAIY _ => allFlags
  | .subAReg _ => allFlags
  | .subAImm _ => allFlags
  | .subAHL => allFlags
  | .subAIX _ => allFlags
  | .subAIY _ => allFlags
  | .sbcAReg _ => allFlags
  | .sbcAImm _ => allFlags
  | .sbcAHL => allFlags
  | .sbcAIX _ => allFlags
  | .sbcAIY _ => allFlags
  | .cpAReg _ => allFlags
  | .cpAImm _ => allFlags
  | .cpAHL => allFlags
  | .cpAIX _ => allFlags
  | .cpAIY _ => allFlags
  | .andAReg _ => allFlags
  | .andAImm _ => allFlags
  | .andAHL => allFlags
  | .andAIX _ => allFlags
  | .andAIY _ => allFlags
  | .orAReg _ => allFlags
  | .orAImm _ => allFlags
  | .orAHL => allFlags
  | .orAIX _ => allFlags
  | .orAIY _ => allFlags
  | .xorAReg _ => allFlags
  | .xorAImm _ => allFlags
  | .xorAHL => allFlags
  | .xorAIX _ => allFlags
  | .xorAIY _ => allFlags
  | .incReg _ => { allFlags with cf := false }
  | .incHL => { allFlags with cf := false }
  | .incIX _ => { allFlags with cf := false }
  | .incIY _ => { allFlags with cf := false }
  | .decReg _ => { allFlags with cf := false }
  | .decHL => { allFlags with cf := false }
  | .decIX _ => { allFlags with cf := false }
  | .decIY _ => { allFlags with cf := false }
  | .daa => { allFlags with nf := false }
  | .cpl => { noFlags with hf := true, nf := true }
  | .neg => allFlags
  | .addHLPair _ => { noFlags with hf := true, nf := true, cf := true }
  | .adcHLPair _ => allFlags
  | .sbcHLPair _ => allFlags
  | .addIXPair _ => { noFlags with hf := true, nf := true, cf := true }
  | .addIYPair _ => { noFlags with hf := true, nf := true, cf := true }
  | .incPair _ => noFlags
  | .incIX16 => noFlags
  | .incIY16 => noFlags
  | .decPair _ => noFlags
  | .decIX16 => noFlags
  | .decIY16 => noFlags
  | .ccf => { noFlags with hf := true, nf := true, cf := true }
  | .scf => { noFlags with hf := true, nf := true, cf := true }
  | .nop => noFlags
  | .halt => noFlags
  | .di => noFlags
  | .ei => noFlags
  | .jp _ => noFlags
  | .jpCond _ _ => noFlags
  | .jpHL => noFlags
  | .jpIX => noFlags
  | .jpIY => noFlags
  | .call _ => noFlags
  | .callCond _ _ => noFlags
  | .ret => noFlags
  | .retCond _ => noFlags
  | .rst _ => noFlags
  | .rlca => { noFlags with hf := true, nf := true, cf := true }
  | .rla => { noFlags with hf := true, nf := true, cf := true }
  | .rrca => { noFlags with hf := true, nf := true, cf := true }
  | .rra => { noFlags with hf := true, nf := true, cf := true }
  | .rlcReg _ => allFlags
  | .rlcHL => allFlags
  | .rlcIX _ => allFlags
  | .rlcIY _ => allFlags
  | .rlReg _ => allFlags
  | .rlHL => allFlags
  | .rlIX _ => allFlags
  | .rlIY _ => allFlags
  | .rrcReg _ => allFlags
  | .rrcHL => allFlags
  | .rrcIX _ => allFlags
  | .rrcIY _ => allFlags
  | .rrReg _ => allFlags
  | .rrHL => allFlags
  | .rrIX _ => allFlags
  | .rrIY _ => allFlags
  | .rld => { allFlags with cf := false }
  | .rrd => { allFlags with cf := false }
  | .slaReg _ => allFlags
  | .slaHL => allFlags
  | .slaIX _ => allFlags
  | .slaIY _ => allFlags
  | .sraReg _ => allFlags
  | .sraHL => allFlags
  | .sraIX _ => allFlags
  | .sraIY _ => allFlags
  | .srlReg _ => allFlags
  | .srlHL => allFlags
  | .srlIX _ => allFlags
  | .srlIY _ => allFlags
  | .bitReg _ _ => { allFlags with cf := false }
  | .bitHL _ => { allFlags with cf := false }
  | .bitIX _ _ => { allFlags with cf := false }
  | .bitIY _ _ => { allFlags with cf := false }
  | .setReg _ _ => noFlags
  | .setHL _ => noFlags
  | .setIX _ _ => noFlags
  | .setIY _ _ => noFlags
  | .resReg _ _ => noFlags
  | .resHL _ => noFlags
  | .resIX _ _ => noFlags
  | .resIY _ _ => noFlags
  | .inAImm _ => noFlags
  | .inRegC _ => { allFlags with cf := false }
  | .outImmA _ => noFlags
  | .outCReg _ => noFlags

/-! ## The 8-bit loads (40_load8.md R120) -/

/-- The destination of an 8-bit load; none for an instruction of another family. -/
def load8Destination (i : Instr) : Option Place :=
  match i with
  | .ldRegReg r _ => some (.reg r)
  | .ldRegImm r _ => some (.reg r)
  | .ldRegHL r => some (.reg r)
  | .ldRegIX r _ => some (.reg r)
  | .ldRegIY r _ => some (.reg r)
  | .ldHLReg _ => some (.mem .atHL)
  | .ldIXReg d _ => some (.mem (.atIX d))
  | .ldIYReg d _ => some (.mem (.atIY d))
  | .ldHLImm _ => some (.mem .atHL)
  | .ldIXImm d _ => some (.mem (.atIX d))
  | .ldIYImm d _ => some (.mem (.atIY d))
  | .ldABC => some (.reg .a)
  | .ldADE => some (.reg .a)
  | .ldAMem _ => some (.reg .a)
  | .ldBCA => some (.mem .atBC)
  | .ldDEA => some (.mem .atDE)
  | .ldMemA nn => some (.mem (.atAddr nn))
  | .ldPairImm _ _ => none
  | .ldIXImm16 _ => none
  | .ldIYImm16 _ => none
  | .ldHLMem _ => none
  | .ldPairMem _ _ => none
  | .ldIXMem _ => none
  | .ldIYMem _ => none
  | .ldMemHL _ => none
  | .ldMemPair _ _ => none
  | .ldMemIX _ => none
  | .ldMemIY _ => none
  | .ldSPHL => none
  | .ldSPIX => none
  | .ldSPIY => none
  | .exDEHL => none
  | .exSPHL => none
  | .pushPair _ => none
  | .pushIX => none
  | .pushIY => none
  | .popPair _ => none
  | .popIX => none
  | .popIY => none
  | .addAReg _ => none
  | .addAImm _ => none
  | .addAHL => none
  | .addAIX _ => none
  | .addAIY _ => none
  | .adcAReg _ => none
  | .adcAImm _ => none
  | .adcAHL => none
  | .adcAIX _ => none
  | .adcAIY _ => none
  | .subAReg _ => none
  | .subAImm _ => none
  | .subAHL => none
  | .subAIX _ => none
  | .subAIY _ => none
  | .sbcAReg _ => none
  | .sbcAImm _ => none
  | .sbcAHL => none
  | .sbcAIX _ => none
  | .sbcAIY _ => none
  | .cpAReg _ => none
  | .cpAImm _ => none
  | .cpAHL => none
  | .cpAIX _ => none
  | .cpAIY _ => none
  | .andAReg _ => none
  | .andAImm _ => none
  | .andAHL => none
  | .andAIX _ => none
  | .andAIY _ => none
  | .orAReg _ => none
  | .orAImm _ => none
  | .orAHL => none
  | .orAIX _ => none
  | .orAIY _ => none
  | .xorAReg _ => none
  | .xorAImm _ => none
  | .xorAHL => none
  | .xorAIX _ => none
  | .xorAIY _ => none
  | .incReg _ => none
  | .incHL => none
  | .incIX _ => none
  | .incIY _ => none
  | .decReg _ => none
  | .decHL => none
  | .decIX _ => none
  | .decIY _ => none
  | .daa => none
  | .cpl => none
  | .neg => none
  | .addHLPair _ => none
  | .adcHLPair _ => none
  | .sbcHLPair _ => none
  | .addIXPair _ => none
  | .addIYPair _ => none
  | .incPair _ => none
  | .incIX16 => none
  | .incIY16 => none
  | .decPair _ => none
  | .decIX16 => none
  | .decIY16 => none
  | .ccf => none
  | .scf => none
  | .nop => none
  | .halt => none
  | .di => none
  | .ei => none
  | .jp _ => none
  | .jpCond _ _ => none
  | .jpHL => none
  | .jpIX => none
  | .jpIY => none
  | .call _ => none
  | .callCond _ _ => none
  | .ret => none
  | .retCond _ => none
  | .rst _ => none
  | .rlca => none
  | .rla => none
  | .rrca => none
  | .rra => none
  | .rlcReg _ => none
  | .rlcHL => none
  | .rlcIX _ => none
  | .rlcIY _ => none
  | .rlReg _ => none
  | .rlHL => none
  | .rlIX _ => none
  | .rlIY _ => none
  | .rrcReg _ => none
  | .rrcHL => none
  | .rrcIX _ => none
  | .rrcIY _ => none
  | .rrReg _ => none
  | .rrHL => none
  | .rrIX _ => none
  | .rrIY _ => none
  | .rld => none
  | .rrd => none
  | .slaReg _ => none
  | .slaHL => none
  | .slaIX _ => none
  | .slaIY _ => none
  | .sraReg _ => none
  | .sraHL => none
  | .sraIX _ => none
  | .sraIY _ => none
  | .srlReg _ => none
  | .srlHL => none
  | .srlIX _ => none
  | .srlIY _ => none
  | .bitReg _ _ => none
  | .bitHL _ => none
  | .bitIX _ _ => none
  | .bitIY _ _ => none
  | .setReg _ _ => none
  | .setHL _ => none
  | .setIX _ _ => none
  | .setIY _ _ => none
  | .resReg _ _ => none
  | .resHL _ => none
  | .resIX _ _ => none
  | .resIY _ _ => none
  | .inAImm _ => none
  | .inRegC _ => none
  | .outImmA _ => none
  | .outCReg _ => none

/-! ## Operands as values, and shapes of an answer -/

/-- The byte a source holds. -/
def State.byteOf (s : State) : Source → Byte
  | .place (.reg r) => s.reg8 r
  | .place (.mem m) => s.peek (s.address m)
  | .imm n => n

/-- The platform defines the read of a source. -/
def State.canRead (s : State) : Source → Bool
  | .place (.reg _) => true
  | .place (.mem m) => s.canAccess (s.address m)
  | .imm _ => true

/-- The byte read at `x` after the stores of a list, in order, of bytes that RAM takes and ROM ignores
(20_memory.md R51). -/
def State.peekAfter (s : State) (stores : List (Word × Byte)) (x : Word) : Byte :=
  stores.foldl (fun seen st => if x = st.1 ∧ s.kindAt st.1 = .ram then st.2 else seen) (s.peek x)

/-- The answer is a next state, `after` of a memory in which exactly the bytes of the list have been stored. -/
def State.AnswersStoring (s : State) (stores : List (Word × Byte)) (after : Memory → State) (r : Result) : Prop :=
  ∃ m, r = .next (after m) ∧ ∀ x, Memory.read m x = s.peekAfter stores x

/-- The answer is the platform fault at the access, in a memory in which exactly the bytes of the list have been
stored (60_exceptions.md R402). -/
def State.FaultsAfterStoring (s : State) (stores : List (Word × Byte)) (access : Access) (r : Result) : Prop :=
  ∃ m, r = .fault (.platformFault access m) ∧ ∀ x, Memory.read m x = s.peekAfter stores x

/-- The answer is a next state in which the 8-bit register holds `v` and the flags are `f`, pc has moved past `len`
bytes, inhibit is 0 and all else is as before. -/
def State.AnswersReg8 (s : State) (r : Reg8) (v : Byte) (f : Flags) (len : Word) (answer : Result) : Prop :=
  ∃ t, answer = .next t ∧ t.reg8 r = v ∧ (∀ q, q ≠ r → t.reg8 q = s.reg8 q) ∧
    t = { s with regs := t.regs, flags := f, pc := s.pc + len, inhibit := false }

/-- The answer is a next state in which the 16-bit register or pair holds `w` and the flags are `f`, pc has moved past
`len` bytes, inhibit is 0 and all else is as before. -/
def State.AnswersReg16 (s : State) (r : Reg16) (w : Word) (f : Flags) (len : Word) (answer : Result) : Prop :=
  ∃ t, answer = .next t ∧ t.reg16 r = w ∧ (∀ q, q ≠ r → t.reg16 q = s.reg16 q) ∧ t.regs.a = s.regs.a ∧
    t = { s with
      regs := t.regs, ix := t.ix, iy := t.iy, sp := t.sp
      flags := f, pc := s.pc + len, inhibit := false }

/-- The answer is a next state in which the place holds `v` and the flags are `f`, pc has moved past `len` bytes,
inhibit is 0 and all else is as before; a place in ROM keeps its byte. -/
def State.AnswersPlace (s : State) (p : Place) (v : Byte) (f : Flags) (len : Word) (answer : Result) : Prop :=
  match p with
  | .reg r => s.AnswersReg8 r v f len answer
  | .mem m =>
    s.AnswersStoring [(s.address m, v)]
      (fun mem => { s with mem := mem, flags := f, pc := s.pc + len, inhibit := false }) answer

/-- The answer with its next state, if it is one, changed by `f`. -/
def mapNext (f : State → State) : Result → Result
  | .next t => .next (f t)
  | .fault reason => .fault reason
  | .refused reason => .refused reason

/-- The state with another list of interrupt requests. -/
def State.withRequests (s : State) (requests : List Bool) : State :=
  { s with platform := { s.platform with intReq := requests } }

/-- The value of a byte of two decimal digits. -/
def bcdValue (v : Byte) : Nat := 10 * (highDigit v).toNat + (lowDigit v).toNat

/-- Both digits of the byte are decimal. -/
def isBcd (v : Byte) : Bool := decide ((highDigit v).toNat < 10) && decide ((lowDigit v).toNat < 10)

end Sys2Proof.Machine
end

