-- ==== Sys2Proof/Certificates/Slice0/Obligations.lean ====
section
/-! DEFINITION. The statements for the provers. Each says which rules of spec/ it rests on; where it rests on a choice
of the model or on a decision or general-knowledge passage of the spec, it says which. -/

open Sys2Proof Sys2Proof.Machine

/-! ## Encoding -/

/-- Decoding the encoding of a well-formed instruction gives it back with the bytes that follow, for every operand
value (30_encoding.md R81 to R95). -/
def Obligations.DecodeAfterEncode : Prop :=
  ∀ (i : Instr) (rest : List Byte), i.WellFormed → decode (encode i ++ rest) = .ok (i, rest)

/-- What decodes is well-formed, and its encoding is exactly the bytes that were consumed: no byte sequence is read as
an instruction that encodes otherwise, so each instruction has one encoding (30_encoding.md R91, R97). -/
def Obligations.EncodeAfterDecode : Prop :=
  ∀ (bytes rest : List Byte) (i : Instr),
    decode bytes = .ok (i, rest) → i.WellFormed ∧ encode i ++ rest = bytes

/-- Words written out from the rows' encodings decode to their instructions (30_encoding.md R92 to R95;
90_conflicts.md C1). The order of the bytes of nn is the spec's adoption (log 18). -/
def Obligations.KnownWordsDecode : Prop :=
  decode [0x78] = .ok (.ldRegReg .a .b, []) ∧
  decode [0xDD, 0x4E, 0x80] = .ok (.ldRegIX .c 0x80, []) ∧
  decode [0xED, 0x73, 0x00, 0x20] = .ok (.ldMemPair 0x2000 .sp, []) ∧
  decode [0xFD, 0x9E, 0x05] = .ok (.sbcAIY 0x05, []) ∧
  decode [0xDD, 0x39] = .ok (.addIXPair .sp, []) ∧
  decode [0xFB] = .ok (.ei, []) ∧
  decode [0xCA, 0x34, 0x12] = .ok (.jpCond .z 0x1234, []) ∧
  decode [0xFF] = .ok (.rst 0x0038, []) ∧
  decode [0xFD, 0xCB, 0xFF, 0x1E] = .ok (.rrIY 0xFF, []) ∧
  decode [0xDD, 0xCB, 0x02, 0x76] = .ok (.bitIX 6 0x02, []) ∧
  decode [0xED, 0x78] = .ok (.inRegC .a, [])

/-- Which byte sequences match no row (30_encoding.md R92 to R96): the first bytes, the bytes after each prefix, the
fourth bytes after DD CB d and FD CB d. -/
def Obligations.UndefinedEncodingsRefused : Prop :=
  (∀ (op : Byte) (rest : List Byte), op ∉ ([0xCB, 0xDD, 0xED, 0xFD] : List Byte) →
    (decode (op :: rest) = .error .undefinedOpcode ↔
      op ∈ ([0x08, 0x10, 0x18, 0x20, 0x28, 0x30, 0x38, 0xD9] : List Byte))) ∧
  (∀ (op : Byte) (rest : List Byte),
    decode (0xCB :: op :: rest) = .error .undefinedOpcode ↔ 0x30 ≤ op ∧ op ≤ 0x37) ∧
  (∀ (op : Byte) (rest : List Byte),
    decode (0xED :: op :: rest) = .error .undefinedOpcode ↔
      op ∉ ([0x40, 0x48, 0x50, 0x58, 0x60, 0x68, 0x78, 0x41, 0x49, 0x51, 0x59, 0x61, 0x69, 0x79,
        0x42, 0x52, 0x62, 0x72, 0x4A, 0x5A, 0x6A, 0x7A, 0x43, 0x53, 0x63, 0x73, 0x4B, 0x5B, 0x6B, 0x7B,
        0x44, 0x67, 0x6F] : List Byte)) ∧
  (∀ (first op : Byte) (rest : List Byte), first ∈ ([0xDD, 0xFD] : List Byte) → op ≠ 0xCB →
    (decode (first :: op :: rest) = .error .undefinedOpcode ↔
      op ∉ ([0x09, 0x19, 0x29, 0x39, 0x21, 0x22, 0x23, 0x2A, 0x2B, 0x34, 0x35, 0x36,
        0x46, 0x4E, 0x56, 0x5E, 0x66, 0x6E, 0x7E, 0x70, 0x71, 0x72, 0x73, 0x74, 0x75, 0x77,
        0x86, 0x8E, 0x96, 0x9E, 0xA6, 0xAE, 0xB6, 0xBE, 0xE1, 0xE5, 0xE9, 0xF9] : List Byte))) ∧
  (∀ (first d op : Byte) (rest : List Byte), first ∈ ([0xDD, 0xFD] : List Byte) →
    (decode (first :: 0xCB :: d :: op :: rest) = .error .undefinedOpcode ↔
      op &&& 0x07 ≠ 0x06 ∨ op = 0x36))

/-! ## The step -/

/-- A step runs the decoded instruction: where no reset or interrupt is due and the machine is not halted, and the
bytes at pc can be read and are one instruction, the step is that instruction's meaning, with nothing added but the
passing of the boundary (60_exceptions.md R420, 20_memory.md R68). -/
def Obligations.StepRunsDecodedInstr : Prop :=
  ∀ (s : State) (bytes : List Byte) (i : Instr),
    s.executes = true → decode bytes = .ok (i, []) → s.holds s.pc bytes = true → step s = exec i s.tick

/-- A step stops at bytes that match no row, recording pc and the bytes (60_exceptions.md R401: the spec's decision
D6). `bytes` are those fetched until the refusal: without the last of them decoding asks for more. -/
def Obligations.StepStopsAtUndefinedOpcode : Prop :=
  ∀ (s : State) (bytes : List Byte),
    s.executes = true → s.holds s.pc bytes = true → decode bytes = .error .undefinedOpcode →
    decode bytes.dropLast = .error .incomplete → step s = .fault (.undefinedOpcode s.pc bytes)

/-- A step stops at the first instruction byte the platform does not define, and memory is as before
(60_exceptions.md R402, R409; 20_memory.md R68). -/
def Obligations.StepStopsAtUnreadableFetch : Prop :=
  ∀ (s : State) (bytes : List Byte),
    s.executes = true → s.holds s.pc bytes = true → decode bytes = .error .incomplete →
    s.canAccess (s.pc + BitVec.ofNat 16 bytes.length) = false →
    step s = .fault (.platformFault (.fetch (s.pc + BitVec.ofNat 16 bytes.length)) s.mem)

/-- An asserted reset overrides halt, interrupts and the DI/EI shadow: pc = 0000h, IFF, inhibit and halted 0, memory
untouched (70_reset_and_hazards.md R450, 60_exceptions.md R409, R420: the spec's decision D1). That the platform's
parameters, the output trace and the count of port reads go on over a reset is the model's choice (log 37, the records of
20_memory.md R61 and the spec's decision D13; log 8), and so is that the step passes one boundary (log 11). The values of
the other registers are the model's (log 12) and are left out. -/
def Obligations.ResetStep : Prop :=
  ∀ s : State, s.resetRequested = true →
    ∃ t, step s = .next t ∧ t.pc = 0x0000 ∧ t.iff = false ∧ t.inhibit = false ∧ t.halted = false ∧
      t.mem = s.mem ∧ t.platform = s.platform ∧ t.ioOut = s.ioOut ∧ t.ioReads = s.ioReads ∧
      t.boundary = s.boundary + 1

/-- The state after reset: pc = 0000h, IFF, inhibit and halted 0 (10_state.md R35: the spec's decision D1), and the
spec's default platform (00_scope.md R5, 20_memory.md R51): every address can be read and written, every port
answered, no request, INT_VECTOR = 0038h. -/
def Obligations.ResetStateValues : Prop :=
  State.reset.pc = 0x0000 ∧ State.reset.iff = false ∧ State.reset.inhibit = false ∧
    State.reset.halted = false ∧ State.reset.platform.intVector = 0x0038 ∧
    (∀ a, State.reset.kindAt a = .ram) ∧ (∀ port, State.reset.canUsePort port = true) ∧
    (∀ k, State.reset.platform.intReq.getD k false = false)

/-- A halted processor executes nothing (60_exceptions.md R417, R418, R420, 10_state.md R30: the spec's decisions D9,
D16). With IFF = 1 as with IFF = 0: where neither a reset is asserted nor an interrupt accepted, the step changes nothing
but the count of boundaries (log 11), and n steps change nothing else while that holds at each of their n boundaries; with
IFF = 0 it holds whatever is requested, so the processor then stays halted for ever short of a reset. -/
def Obligations.HaltedWithInterruptsOffStaysHalted : Prop :=
  (∀ s : State, s.halted = true → s.resetRequested = false → s.interruptAccepted = false →
    step s = .next { s with boundary := s.boundary + 1 }) ∧
  ∀ (n : Nat) (s : State), s.halted = true →
    (∀ k, k < n → s.platform.resetReq.getD (s.boundary + k) false = false) →
    (s.iff = false ∨ ∀ k, k < n → ({ s with boundary := s.boundary + k } : State).interruptAccepted = false) →
    Sys2Proof.core.run n s = .next { s with boundary := s.boundary + n }

/-- Taking an interrupt (60_exceptions.md R405, R406, R418: the spec's decisions D3, D4, D16): with a request pending,
IFF = 1 and inhibit = 0, halted or not, the step pushes pc high byte first, clears IFF, inhibit and halted, and goes
to INT_VECTOR; nothing else changes. Where the platform does not define a stack byte the step is the platform fault at
it, and a high byte already written remains: that R402 holds of an entry too is the model's choice (log 13). -/
def Obligations.StepTakesAcceptedInterrupt : Prop :=
  ∀ s : State, s.resetRequested = false → s.interruptRequested = true → s.iff = true → s.inhibit = false →
    (s.canAccess (s.sp - 1) = true → s.canAccess (s.sp - 2) = true →
      s.AnswersStoring [(s.sp - 1, highByte s.pc), (s.sp - 2, lowByte s.pc)]
        (fun mem => { s with
          mem := mem, sp := s.sp - 2, pc := s.platform.intVector
          iff := false, inhibit := false, halted := false, boundary := s.boundary + 1 })
        (step s)) ∧
    (s.canAccess (s.sp - 1) = false → step s = .fault (.platformFault (.memWrite (s.sp - 1)) s.mem)) ∧
    (s.canAccess (s.sp - 1) = true → s.canAccess (s.sp - 2) = false →
      s.FaultsAfterStoring [(s.sp - 1, highByte s.pc)] (.memWrite (s.sp - 2)) (step s))

/-- With IFF = 0, or directly after DI or EI, the requests of the platform make no difference to a step
(60_exceptions.md R404, R405). -/
def Obligations.MaskedRequestIsIgnored : Prop :=
  ∀ (s : State) (requests : List Bool), s.iff = false ∨ s.inhibit = true →
    step (s.withRequests requests) = mapNext (·.withRequests requests) (step s)

/-- EI then RET, the end of a handler: whatever is requested, both run before any interrupt, and the machine is at the
popped address with IFF = 1 (60_exceptions.md R407: the spec's decision D5; 70_reset_and_hazards.md R453). -/
def Obligations.HandlerReturnsThroughEiRet : Prop :=
  ∀ s : State, s.executes = true → s.platform.resetReq.getD (s.boundary + 1) false = false →
    s.holds s.pc [0xFB, 0xC9] = true → s.canAccess s.sp = true → s.canAccess (s.sp + 1) = true →
    Sys2Proof.core.run 2 s = .next { s with
      pc := word (s.peek (s.sp + 1)) (s.peek s.sp), sp := s.sp + 2, iff := true, inhibit := false
      boundary := s.boundary + 2 }

/-- Interrupts are precise: an interrupt whose handler is RET alone resumes at the interrupted address with the stack
pointer, the registers and the flags as they were (60_exceptions.md R406, R407, R410: the spec's decisions D3 to
D5). The stack is RAM and the RET is not one of the two bytes pushed. -/
def Obligations.InterruptThenRetResumes : Prop :=
  ∀ s : State, s.resetRequested = false → s.platform.resetReq.getD (s.boundary + 1) false = false →
    s.interruptAccepted = true → s.kindAt (s.sp - 1) = .ram → s.kindAt (s.sp - 2) = .ram →
    s.holds s.platform.intVector [0xC9] = true →
    s.platform.intVector ≠ s.sp - 1 → s.platform.intVector ≠ s.sp - 2 →
    s.AnswersStoring [(s.sp - 1, highByte s.pc), (s.sp - 2, lowByte s.pc)]
      (fun mem => { s with
        mem := mem, iff := false, inhibit := false, halted := false, boundary := s.boundary + 2 })
      (Sys2Proof.core.run 2 s)

/-- The hidden bit inhibit: DI and EI set it, every other instruction clears it when it completes, interrupt entry and
reset clear it, and an interrupt is accepted only where it is 0 (10_state.md R29). -/
def Obligations.InhibitFollowsDiEi : Prop :=
  (∀ (i : Instr) (s t : State), exec i s = .next t → (t.inhibit = true ↔ i = .di ∨ i = .ei)) ∧
    (∀ s t : State, s.interruptEntry = .next t → t.inhibit = false) ∧
    (∀ s : State, s.applyReset.inhibit = false) ∧
    (∀ s : State, s.interruptAccepted = true → s.inhibit = false)

/-- IFF and halted over all instructions: only DI and EI write IFF, and only HALT sets halted, which no instruction
clears (10_state.md R28, R30). -/
def Obligations.OnlyDiEiHaltWriteControlBits : Prop :=
  ∀ (i : Instr) (s t : State), exec i s = .next t →
    t.iff = (if i = .di then false else if i = .ei then true else s.iff) ∧
    t.halted = (if i = .halt then true else s.halted)

/-- After EI exactly one instruction runs before a pending interrupt is accepted, unless it is DI or EI again
(70_reset_and_hazards.md R453, 60_exceptions.md R405). -/
def Obligations.EiShadowCoversOneInstr : Prop :=
  ∀ s t : State, exec .ei s = .next t →
    t.interruptAccepted = false ∧
    ∀ (j : Instr) (u : State), exec j t.tick = .next u → j ≠ .di → j ≠ .ei →
      u.interruptRequested = true → u.interruptAccepted = true

/-! ## Rules of the whole machine -/

/-- A flag changes only under an instruction whose row writes it, as the table of 10_state.md R34 says (R22). -/
def Obligations.FlagsKeptUnlessWritten : Prop :=
  ∀ (i : Instr) (s t : State), exec i s = .next t →
    ((flagsWritten i).sf = false → t.flags.sf = s.flags.sf) ∧
    ((flagsWritten i).zf = false → t.flags.zf = s.flags.zf) ∧
    ((flagsWritten i).hf = false → t.flags.hf = s.flags.hf) ∧
    ((flagsWritten i).pf = false → t.flags.pf = s.flags.pf) ∧
    ((flagsWritten i).nf = false → t.flags.nf = s.flags.nf) ∧
    ((flagsWritten i).cf = false → t.flags.cf = s.flags.cf)

/-- Every byte of memory but those an instruction stores to reads as before: the frame of all instructions at once
(20_memory.md R67). -/
def Obligations.MemoryKeptUnlessStored : Prop :=
  ∀ (i : Instr) (s t : State), exec i s = .next t →
    ∀ a, a ∉ storeAddresses i s → t.peek a = s.peek a

/-- Over any step, reset and interrupt entry included, ROM bytes never change and the processor writes no parameter of
the platform (20_memory.md R51, R61; 00_scope.md R5). -/
def Obligations.RomAndPlatformNeverChange : Prop :=
  ∀ s t : State, step s = .next t →
    t.platform = s.platform ∧ ∀ a, s.kindAt a ≠ .ram → t.peek a = s.peek a

/-- Port traffic of all instructions: each IN makes exactly one port read, each OUT appends exactly one pair to the
output trace, and no other instruction reaches a port (20_memory.md R61, 49_io.md R360). That a port is answered by a
numbered read and recorded in a trace is the spec's decision D13. -/
def Obligations.PortTraffic : Prop :=
  ∀ (i : Instr) (s t : State), exec i s = .next t →
    t.ioReads = s.ioReads + (portReads i s).length ∧
    ∃ pairs : List (Byte × Byte), t.ioOut = s.ioOut ++ pairs ∧ pairs.map Prod.fst = portWrites i s

/-- The accesses of an instruction decide how it ends (60_exceptions.md R400, R402, R409; 20_memory.md R67): if the
platform defines them all it completes; else it is the platform fault at the first it does not define, and the memory
the fault leaves differs from the one before at most where an earlier access of the same instruction wrote. What such an
earlier write leaves there is stated by TwoByteStoreKeepsFirstByte. The order of the accesses is the spec's decisions
D14 and D15. -/
def Obligations.AccessesDecideOutcome : Prop :=
  ∀ (i : Instr) (s : State),
    ((∀ x ∈ dataAccesses i s, s.serves x = true) → ∃ t, exec i s = .next t) ∧
    ∀ (earlier later : List Access) (x : Access), dataAccesses i s = earlier ++ x :: later →
      (∀ y ∈ earlier, s.serves y = true) → s.serves x = false →
      ∃ m, exec i s = .fault (.platformFault x m) ∧
        ∀ a, Access.memWrite a ∉ earlier → Memory.read m a = s.peek a

/-- On the spec's default platform, 64 KiB of RAM and every port answered, every one of the 167 instructions completes,
in every state and for all operands: no synchronous exception exists (60_exceptions.md R400, R402). -/
def Obligations.EveryInstrCompletesOnDefaultPlatform : Prop :=
  ∀ (i : Instr) (s : State), s.platform.regions = [] → s.platform.deadPorts = [] → ∃ t, exec i s = .next t

/-- Every step keeps the invariant: memory stays canonical (also in the memory a fault leaves), and no state is halted
and in the shadow of DI or EI at once (60_exceptions.md R418, R420). -/
def Obligations.StepKeepsInv : Prop :=
  ∀ s : State, s.Inv →
    (∀ t, step s = .next t → t.Inv) ∧
    ∀ x m, step s = .fault (.platformFault x m) → Memory.wf m = true

/-- The state after reset has the invariant. -/
def Obligations.ResetHasInv : Prop := State.reset.Inv

/-- No 8-bit load reads or writes a flag, and the only state it writes is its destination, pc and inhibit
(40_load8.md R120). -/
def Obligations.Load8TouchesOnlyItsDestination : Prop :=
  ∀ (i : Instr) (p : Place), load8Destination i = some p →
    (∀ (s : State) (f : Flags), exec i (s.setFlags f) = mapNext (·.setFlags f) (exec i s)) ∧
    ∀ s t : State, exec i s = .next t →
      t = { s with regs := t.regs, mem := t.mem, pc := t.pc, inhibit := t.inhibit } ∧
      match p with
      | .reg r => (∀ q, q ≠ r → t.reg8 q = s.reg8 q) ∧ t.mem = s.mem
      | .mem m => t.regs = s.regs ∧ ∀ a, a ≠ s.address m → t.peek a = s.peek a

/-! ## Memory -/

/-- Two memories in canonical form that read alike at every address are the same list: the form is canonical. What an
unlisted byte reads as is the model's choice (log 5); the statement holds of the form whatever it is. -/
def Obligations.MemoriesReadingAlikeAreEqual : Prop :=
  ∀ m m' : Memory, m.wf = true → m'.wf = true → (∀ a, m.read a = m'.read a) → m = m'

/-- There is no roll-back: an instruction that stores two bytes, of which the platform does not define the second, is the
platform fault there with its first byte stored, and with nothing else of memory changed (60_exceptions.md R402). So it
is for LD (nn),HL, dd, IX and IY (low byte first, the spec's decision D15), for PUSH, for a taken CALL and for RST (high
byte first; the address pushed is the spec's inference R280, log 33; the halves of pairs are log 21). EX (SP),HL reads
both its bytes before it writes one (the spec's decision D14, log 32), so it faults at a read alone and leaves memory as
it was. -/
def Obligations.TwoByteStoreKeepsFirstByte : Prop :=
  (∀ (s : State) (nn : Word) (dd : RegDD), s.canAccess nn = true → s.canAccess (nn + 1) = false →
    ∀ e ∈ [(Instr.ldMemHL nn, Reg16.hl), (.ldMemPair nn dd, ofDD dd), (.ldMemIX nn, .ix), (.ldMemIY nn, .iy)],
      s.FaultsAfterStoring [(nn, lowByte (s.reg16 e.2))] (.memWrite (nn + 1)) (exec e.1 s)) ∧
  (∀ (s : State) (nn : Word) (cc : Cond), s.canAccess (s.sp - 1) = true → s.canAccess (s.sp - 2) = false →
    ∀ e ∈ [(Instr.pushPair .bc, true, s.regs.b), (.pushPair .de, true, s.regs.d), (.pushPair .hl, true, s.regs.h),
        (.pushPair .af, true, s.regs.a), (.pushIX, true, highByte s.ix), (.pushIY, true, highByte s.iy),
        (.call nn, true, highByte (s.pc + 3)), (.callCond cc nn, s.flags.holds cc, highByte (s.pc + 3)),
        (.rst nn, true, highByte (s.pc + 1))],
      e.2.1 = true → s.FaultsAfterStoring [(s.sp - 1, e.2.2)] (.memWrite (s.sp - 2)) (exec e.1 s)) ∧
  ∀ (s : State) (x : Access) (m : Memory), exec .exSPHL s = .fault (.platformFault x m) →
    (x = .memRead s.sp ∨ x = .memRead (s.sp + 1)) ∧ m = s.mem

/-! ## 8-bit and 16-bit loads -/

/-- The 8-bit loads into a register complete wherever their operand can be read: the register takes the byte, pc moves
past the instruction, and nothing else changes (40_load8.md R121 to R125, R132 to R134). -/
def Obligations.LoadRegisterResult : Prop :=
  ∀ (s : State) (r r' : Reg8) (n d : Byte) (nn : Word),
    ∀ e ∈ [(Instr.ldRegReg r r', r, Source.place (.reg r'), (1 : Word)),
        (.ldRegImm r n, r, .imm n, 2),
        (.ldRegHL r, r, .place (.mem .atHL), 1),
        (.ldRegIX r d, r, .place (.mem (.atIX d)), 3),
        (.ldRegIY r d, r, .place (.mem (.atIY d)), 3),
        (.ldABC, .a, .place (.mem .atBC), 1),
        (.ldADE, .a, .place (.mem .atDE), 1),
        (.ldAMem nn, .a, .place (.mem (.atAddr nn)), 3)],
      s.canRead e.2.2.1 = true → s.AnswersReg8 e.2.1 (s.byteOf e.2.2.1) s.flags e.2.2.2 (exec e.1 s)

/-- The 8-bit stores complete wherever their address is RAM or ROM: the byte at the operand's address, as State.address
gives it from the registers before the store, becomes the source's in RAM; every other byte and all else but pc and
inhibit is as before (40_load8.md R126 to R131, R135 to R137). -/
def Obligations.StoreByteResult : Prop :=
  ∀ (s : State) (r : Reg8) (n d : Byte) (nn : Word),
    ∀ e ∈ [(Instr.ldHLReg r, MemOperand.atHL, s.reg8 r, (1 : Word)),
        (.ldIXReg d r, .atIX d, s.reg8 r, 3),
        (.ldIYReg d r, .atIY d, s.reg8 r, 3),
        (.ldHLImm n, .atHL, n, 2),
        (.ldIXImm d n, .atIX d, n, 4),
        (.ldIYImm d n, .atIY d, n, 4),
        (.ldBCA, .atBC, s.regs.a, 1),
        (.ldDEA, .atDE, s.regs.a, 1),
        (.ldMemA nn, .atAddr nn, s.regs.a, 3)],
      s.canAccess (s.address e.2.1) = true →
      s.AnswersStoring [(s.address e.2.1, e.2.2.1)]
        (fun mem => { s with mem := mem, pc := s.pc + e.2.2.2, inhibit := false }) (exec e.1 s)

/-- The 16-bit loads complete wherever their two bytes can be read: the low byte of the register is the byte at nn, the
high byte the one at nn + 1 mod 2^16, or the register takes the immediate; EX DE,HL exchanges the four registers of the
two pairs in every state (41_load16.md R141 to R147, R155, 20_memory.md R52, R55). That B and D are the high halves of
BC and DE is the spec's general knowledge (10_state.md R21, log 21). -/
def Obligations.LoadPairResult : Prop :=
  ∀ (s : State) (dd : RegDD) (nn : Word),
    (∀ e ∈ [(Instr.ldPairImm dd nn, ofDD dd, (3 : Word)), (.ldIXImm16 nn, .ix, 4), (.ldIYImm16 nn, .iy, 4)],
      s.AnswersReg16 e.2.1 nn s.flags e.2.2 (exec e.1 s)) ∧
    (s.canAccess nn = true → s.canAccess (nn + 1) = true →
      ∀ e ∈ [(Instr.ldHLMem nn, Reg16.hl, (3 : Word)), (.ldPairMem dd nn, ofDD dd, 4), (.ldIXMem nn, .ix, 4),
          (.ldIYMem nn, .iy, 4)],
        s.AnswersReg16 e.2.1 (word (s.peek (nn + 1)) (s.peek nn)) s.flags e.2.2 (exec e.1 s)) ∧
    exec .exDEHL s = .next { s with
      regs := { s.regs with d := s.regs.h, e := s.regs.l, h := s.regs.d, l := s.regs.e }
      pc := s.pc + 1, inhibit := false }

/-- The 16-bit stores complete wherever both addresses are RAM or ROM: the low byte goes to nn and the high byte to
nn + 1 mod 2^16, and nothing else changes but pc and inhibit (41_load16.md R148 to R151, 20_memory.md R52). -/
def Obligations.StorePairResult : Prop :=
  ∀ (s : State) (dd : RegDD) (nn : Word), s.canAccess nn = true → s.canAccess (nn + 1) = true →
    ∀ e ∈ [(Instr.ldMemHL nn, Reg16.hl, (3 : Word)), (.ldMemPair nn dd, ofDD dd, 4), (.ldMemIX nn, .ix, 4),
        (.ldMemIY nn, .iy, 4)],
      s.AnswersStoring [(nn, lowByte (s.reg16 e.2.1)), (nn + 1, highByte (s.reg16 e.2.1))]
        (fun mem => { s with mem := mem, pc := s.pc + e.2.2, inhibit := false }) (exec e.1 s)

/-- LD SP,HL, LD SP,IX and LD SP,IY complete in every state: SP takes the value of HL (H : L), IX or IY, and nothing else
changes but pc and inhibit (41_load16.md R152 to R154). -/
def Obligations.StackPointerLoadResult : Prop :=
  ∀ s : State,
    exec .ldSPHL s = .next { s with sp := word s.regs.h s.regs.l, pc := s.pc + 1, inhibit := false } ∧
    exec .ldSPIX s = .next { s with sp := s.ix, pc := s.pc + 2, inhibit := false } ∧
    exec .ldSPIY s = .next { s with sp := s.iy, pc := s.pc + 2, inhibit := false }

/-- EX (SP),HL completes wherever both stack bytes are RAM or ROM: L takes the byte at SP and H the byte at SP + 1, the
old H and L take their places, SP stays and no flag changes (41_load16.md R156). -/
def Obligations.ExchangeWithStackTop : Prop :=
  ∀ s : State, s.canAccess s.sp = true → s.canAccess (s.sp + 1) = true →
    s.AnswersStoring [(s.sp + 1, s.regs.h), (s.sp, s.regs.l)]
      (fun mem => { s with
        mem := mem, regs := { s.regs with h := s.peek (s.sp + 1), l := s.peek s.sp }
        pc := s.pc + 1, inhibit := false })
      (exec .exSPHL s)

/-- PUSH completes wherever both stack bytes are RAM or ROM: the high byte goes to SP - 1, the low byte to SP - 2, SP
falls by 2, and nothing else changes but pc and inhibit. PUSH AF stores A, then a byte F with S, Z, H, P/V, N, C at
bits 7, 6, 4, 2, 1, 0 and anything at bits 5 and 3 (41_load16.md R157 to R159, 20_memory.md R59; the layout of F is the
spec's adoption, log 20; the free bits are log 6). -/
def Obligations.PushResult : Prop :=
  ∀ s : State, s.canAccess (s.sp - 1) = true → s.canAccess (s.sp - 2) = true →
    (∀ e ∈ [(Instr.pushPair .bc, s.regs.b, s.regs.c, (1 : Word)), (.pushPair .de, s.regs.d, s.regs.e, 1),
        (.pushPair .hl, s.regs.h, s.regs.l, 1), (.pushIX, highByte s.ix, lowByte s.ix, 2),
        (.pushIY, highByte s.iy, lowByte s.iy, 2)],
      s.AnswersStoring [(s.sp - 1, e.2.1), (s.sp - 2, e.2.2.1)]
        (fun mem => { s with mem := mem, sp := s.sp - 2, pc := s.pc + e.2.2.2, inhibit := false })
        (exec e.1 s)) ∧
    ∃ (f : Byte) (draws : Nat),
      f.getLsbD 7 = s.flags.sf ∧ f.getLsbD 6 = s.flags.zf ∧ f.getLsbD 4 = s.flags.hf ∧
      f.getLsbD 2 = s.flags.pf ∧ f.getLsbD 1 = s.flags.nf ∧ f.getLsbD 0 = s.flags.cf ∧
      s.AnswersStoring [(s.sp - 1, s.regs.a), (s.sp - 2, f)]
        (fun mem => { s with mem := mem, sp := s.sp - 2, pc := s.pc + 1, inhibit := false, draws := draws })
        (exec (.pushPair .af) s)

/-- POP completes wherever both stack bytes can be read: the low byte comes from SP, the high byte from SP + 1, SP rises
by 2, and nothing else changes but pc and inhibit. POP AF writes A and all six flags and ignores bits 5 and 3
(41_load16.md R160 to R162, 20_memory.md R59; the layout of F is the spec's adoption, log 20). -/
def Obligations.PopResult : Prop :=
  ∀ s : State, s.canAccess s.sp = true → s.canAccess (s.sp + 1) = true →
    (∀ e ∈ [(Instr.popPair .bc, Reg16.bc, (1 : Word)), (.popPair .de, .de, 1), (.popPair .hl, .hl, 1),
        (.popIX, .ix, 2), (.popIY, .iy, 2)],
      ({ s with sp := s.sp + 2 } : State).AnswersReg16 e.2.1 (word (s.peek (s.sp + 1)) (s.peek s.sp))
        s.flags e.2.2 (exec e.1 s)) ∧
    exec (.popPair .af) s = .next { s with
      regs := { s.regs with a := s.peek (s.sp + 1) }
      flags :=
        { sf := (s.peek s.sp).getLsbD 7, zf := (s.peek s.sp).getLsbD 6, hf := (s.peek s.sp).getLsbD 4
          pf := (s.peek s.sp).getLsbD 2, nf := (s.peek s.sp).getLsbD 1, cf := (s.peek s.sp).getLsbD 0 }
      sp := s.sp + 2, pc := s.pc + 1, inhibit := false }

/-- What PUSH put down, POP takes up: on a stack in RAM, PUSH qq then POP qq, PUSH IX then POP IX and PUSH IY then
POP IY restore the registers, and of AF all six flags as well, whatever bits 5 and 3 of the byte were
(10_state.md R23, 20_memory.md R59). -/
def Obligations.PushThenPopRestores : Prop :=
  ∀ (s : State) (qq : RegQQ), s.kindAt (s.sp - 1) = .ram → s.kindAt (s.sp - 2) = .ram →
    ∀ e ∈ [(Instr.pushPair qq, Instr.popPair qq), (.pushIX, .popIX), (.pushIY, .popIY)],
      ∃ t u, exec e.1 s = .next t ∧ exec e.2 t = .next u ∧
        u.regs = s.regs ∧ u.flags = s.flags ∧ u.ix = s.ix ∧ u.iy = s.iy ∧ u.sp = s.sp

/-! ## 8-bit arithmetic and logic -/

/-- ADD A,s and ADC A,s complete wherever the operand can be read. With a, v and c the values of A, the operand and the
carry in: A takes a + v + c mod 256, C the carry out of bit 7, H the carry out of bit 3, P/V the signed overflow, Z and
S describe the result, N = 0; nothing else changes but pc and inhibit (42_alu8.md R171, R180 to R189; what each flag
means is the spec's general knowledge, log 22). -/
def Obligations.AddResult : Prop :=
  ∀ (s : State) (r : Reg8) (n d : Byte),
    ∀ e ∈ [(Instr.addAReg r, Source.place (.reg r), (1 : Word), false),
        (.addAImm n, .imm n, 2, false),
        (.addAHL, .place (.mem .atHL), 1, false),
        (.addAIX d, .place (.mem (.atIX d)), 3, false),
        (.addAIY d, .place (.mem (.atIY d)), 3, false),
        (.adcAReg r, .place (.reg r), 1, s.flags.cf),
        (.adcAImm n, .imm n, 2, s.flags.cf),
        (.adcAHL, .place (.mem .atHL), 1, s.flags.cf),
        (.adcAIX d, .place (.mem (.atIX d)), 3, s.flags.cf),
        (.adcAIY d, .place (.mem (.atIY d)), 3, s.flags.cf)],
      s.canRead e.2.1 = true →
      ∃ t, exec e.1 s = .next t ∧
        t = { s with
          regs := { s.regs with a := t.regs.a }, flags := t.flags, pc := s.pc + e.2.2.1, inhibit := false } ∧
        let a := s.regs.a
        let v := s.byteOf e.2.1
        let c := if e.2.2.2 then 1 else 0
        t.regs.a.toNat = (a.toNat + v.toNat + c) % 256 ∧
        (t.flags.cf = true ↔ 256 ≤ a.toNat + v.toNat + c) ∧
        (t.flags.hf = true ↔ 16 ≤ a.toNat % 16 + v.toNat % 16 + c) ∧
        (t.flags.pf = true ↔ a.toInt + v.toInt + c < -128 ∨ 127 < a.toInt + v.toInt + c) ∧
        (t.flags.zf = true ↔ t.regs.a = 0) ∧ (t.flags.sf = true ↔ t.regs.a.toInt < 0) ∧ t.flags.nf = false

/-- SUB s and SBC A,s complete wherever the operand can be read. With a, v and c the values of A, the operand and the
borrow in: A takes a - v - c mod 256, C is set exactly when v + c exceeds a, H when that holds of the low digits, P/V is
the signed overflow, Z and S describe the result, N = 1; nothing else changes but pc and inhibit (42_alu8.md R172, R190
to R199; that C and H hold borrows is the spec's general knowledge, log 22). -/
def Obligations.SubtractResult : Prop :=
  ∀ (s : State) (r : Reg8) (n d : Byte),
    ∀ e ∈ [(Instr.subAReg r, Source.place (.reg r), (1 : Word), false),
        (.subAImm n, .imm n, 2, false),
        (.subAHL, .place (.mem .atHL), 1, false),
        (.subAIX d, .place (.mem (.atIX d)), 3, false),
        (.subAIY d, .place (.mem (.atIY d)), 3, false),
        (.sbcAReg r, .place (.reg r), 1, s.flags.cf),
        (.sbcAImm n, .imm n, 2, s.flags.cf),
        (.sbcAHL, .place (.mem .atHL), 1, s.flags.cf),
        (.sbcAIX d, .place (.mem (.atIX d)), 3, s.flags.cf),
        (.sbcAIY d, .place (.mem (.atIY d)), 3, s.flags.cf)],
      s.canRead e.2.1 = true →
      ∃ t, exec e.1 s = .next t ∧
        t = { s with
          regs := { s.regs with a := t.regs.a }, flags := t.flags, pc := s.pc + e.2.2.1, inhibit := false } ∧
        let a := s.regs.a
        let v := s.byteOf e.2.1
        let c := if e.2.2.2 then 1 else 0
        t.regs.a.toNat = (a.toNat + 512 - v.toNat - c) % 256 ∧
        (t.flags.cf = true ↔ a.toNat < v.toNat + c) ∧
        (t.flags.hf = true ↔ a.toNat % 16 < v.toNat % 16 + c) ∧
        (t.flags.pf = true ↔ a.toInt - v.toInt - c < -128 ∨ 127 < a.toInt - v.toInt - c) ∧
        (t.flags.zf = true ↔ t.regs.a = 0) ∧ (t.flags.sf = true ↔ t.regs.a.toInt < 0) ∧ t.flags.nf = true

/-- CP s completes wherever the operand can be read and writes flags alone: Z is set exactly when A equals the operand,
C when A is below it unsigned, H when that holds of the low digits, P/V on signed overflow of the difference, S is the
sign bit of the difference, N = 1 (42_alu8.md R172, R200 to R204; the meaning of C and H is the spec's general
knowledge, log 22). -/
def Obligations.CompareResult : Prop :=
  ∀ (s : State) (r : Reg8) (n d : Byte),
    ∀ e ∈ [(Instr.cpAReg r, Source.place (.reg r), (1 : Word)), (.cpAImm n, .imm n, 2),
        (.cpAHL, .place (.mem .atHL), 1), (.cpAIX d, .place (.mem (.atIX d)), 3),
        (.cpAIY d, .place (.mem (.atIY d)), 3)],
      s.canRead e.2.1 = true →
      ∃ f : Flags, exec e.1 s = .next { s with flags := f, pc := s.pc + e.2.2, inhibit := false } ∧
        let a := s.regs.a
        let v := s.byteOf e.2.1
        (f.zf = true ↔ a = v) ∧ (f.cf = true ↔ a.toNat < v.toNat) ∧
        (f.hf = true ↔ a.toNat % 16 < v.toNat % 16) ∧
        (f.pf = true ↔ a.toInt - v.toInt < -128 ∨ 127 < a.toInt - v.toInt) ∧
        (f.sf = true ↔ (a - v).toInt < 0) ∧ f.nf = true

/-- AND, OR and XOR complete wherever the operand can be read: every bit of A becomes the operation of its two bits, S
and Z describe the result, P/V is 1 exactly when the number of 1 bits of the result is even, H = 1 for all three as the
source prints, N = 0, C = 0 (42_alu8.md R170, R175, R205 to R219; that 1 means even is the spec's general knowledge,
log 22; H of OR and XOR is log 26). -/
def Obligations.LogicResult : Prop :=
  ∀ (s : State) (r : Reg8) (n d : Byte),
    ∀ e ∈ [(Instr.andAReg r, Source.place (.reg r), (1 : Word), and), (.andAImm n, .imm n, 2, and),
        (.andAHL, .place (.mem .atHL), 1, and), (.andAIX d, .place (.mem (.atIX d)), 3, and),
        (.andAIY d, .place (.mem (.atIY d)), 3, and),
        (.orAReg r, .place (.reg r), 1, or), (.orAImm n, .imm n, 2, or),
        (.orAHL, .place (.mem .atHL), 1, or), (.orAIX d, .place (.mem (.atIX d)), 3, or),
        (.orAIY d, .place (.mem (.atIY d)), 3, or),
        (.xorAReg r, .place (.reg r), 1, xor), (.xorAImm n, .imm n, 2, xor),
        (.xorAHL, .place (.mem .atHL), 1, xor), (.xorAIX d, .place (.mem (.atIX d)), 3, xor),
        (.xorAIY d, .place (.mem (.atIY d)), 3, xor)],
      s.canRead e.2.1 = true →
      ∃ t, exec e.1 s = .next t ∧
        t = { s with
          regs := { s.regs with a := t.regs.a }, flags := t.flags, pc := s.pc + e.2.2.1, inhibit := false } ∧
        (∀ k, k < 8 → t.regs.a.getLsbD k = e.2.2.2 (s.regs.a.getLsbD k) ((s.byteOf e.2.1).getLsbD k)) ∧
        (t.flags.sf = true ↔ t.regs.a.toInt < 0) ∧ (t.flags.zf = true ↔ t.regs.a = 0) ∧
        (t.flags.pf = true ↔ ((List.range 8).countP fun k => t.regs.a.getLsbD k) % 2 = 0) ∧
        t.flags.hf = true ∧ t.flags.nf = false ∧ t.flags.cf = false

/-- INC and DEC of a byte complete wherever the operand is a register, RAM or ROM: the place takes v + 1 or v - 1 mod
256, S and Z describe the result, H is the carry out of bit 3 or the borrow into it, P/V is set exactly for 7Fh or 80h,
N tells which of the two it was and C is kept (42_alu8.md R220 to R227; the meaning of H and P/V is the spec's general
knowledge, log 22). -/
def Obligations.IncDecByteResult : Prop :=
  ∀ (s : State) (r : Reg8) (d : Byte),
    ∀ p ∈ [Place.reg r, .mem .atHL, .mem (.atIX d), .mem (.atIY d)], s.canRead (.place p) = true →
      let v := s.byteOf (.place p)
      (∀ e ∈ [(Instr.incReg r, Place.reg r, (1 : Word)), (.incHL, .mem .atHL, 1), (.incIX d, .mem (.atIX d), 3),
          (.incIY d, .mem (.atIY d), 3)], e.2.1 = p →
        ∃ f : Flags, s.AnswersPlace p (v + 1) f e.2.2 (exec e.1 s) ∧
          (f.sf = true ↔ 127 ≤ v.toNat ∧ v.toNat < 255) ∧ (f.zf = true ↔ v = 0xFF) ∧
          (f.hf = true ↔ v.toNat % 16 = 15) ∧ (f.pf = true ↔ v = 0x7F) ∧ f.nf = false ∧ f.cf = s.flags.cf) ∧
      (∀ e ∈ [(Instr.decReg r, Place.reg r, (1 : Word)), (.decHL, .mem .atHL, 1), (.decIX d, .mem (.atIX d), 3),
          (.decIY d, .mem (.atIY d), 3)], e.2.1 = p →
        ∃ f : Flags, s.AnswersPlace p (v - 1) f e.2.2 (exec e.1 s) ∧
          (f.sf = true ↔ v = 0 ∨ 129 ≤ v.toNat) ∧ (f.zf = true ↔ v = 0x01) ∧
          (f.hf = true ↔ v.toNat % 16 = 0) ∧ (f.pf = true ↔ v = 0x80) ∧ f.nf = true ∧ f.cf = s.flags.cf)

/-- DAA completes in every state. The correction has 6 in its low digit when H is set or A's low digit exceeds 9, and 6
in its high digit when C is set or A exceeds 99h; it is added, or subtracted when N is set; C is set by the second case
and never cleared, N is kept, S, Z and P/V describe the new A (42_alu8.md R228: the whole algorithm is the spec's
general knowledge, log 24). -/
def Obligations.DaaResult : Prop :=
  ∀ s : State,
    let a := s.regs.a.toNat
    let low := if s.flags.hf = true ∨ 9 < a % 16 then 6 else 0
    let high := if s.flags.cf = true ∨ 0x99 < a then 0x60 else 0
    ∃ t, exec .daa s = .next t ∧
      t = { s with
        regs := { s.regs with a := t.regs.a }, flags := t.flags, pc := s.pc + 1, inhibit := false } ∧
      t.regs.a.toNat = (if s.flags.nf = true then a + 256 - (low + high) else a + (low + high)) % 256 ∧
      (t.flags.cf = true ↔ s.flags.cf = true ∨ 0x99 < a) ∧ t.flags.nf = s.flags.nf ∧
      (t.flags.hf = true ↔ if s.flags.nf = true then s.flags.hf = true ∧ a % 16 < 6 else 9 < a % 16) ∧
      (t.flags.sf = true ↔ t.regs.a.toInt < 0) ∧ (t.flags.zf = true ↔ t.regs.a = 0) ∧
      (t.flags.pf = true ↔ ((List.range 8).countP fun k => t.regs.a.getLsbD k) % 2 = 0)

/-- After ADC of two packed-BCD bytes, DAA leaves the packed-BCD sum with its decimal carry in C, so that bytes chain
into longer decimal numbers; after SBC it leaves the decimal difference with its borrow; for every operand form
(42_alu8.md R185 to R189, R195 to R199, R228; 93_implementation_defined.md G8: the algorithm is the spec's general
knowledge, log 24). -/
def Obligations.DaaMakesDecimalArithmetic : Prop :=
  ∀ (s : State) (r : Reg8) (n d : Byte),
    ∀ e ∈ [(Instr.adcAReg r, Instr.sbcAReg r, Source.place (.reg r)), (.adcAImm n, .sbcAImm n, .imm n),
        (.adcAHL, .sbcAHL, .place (.mem .atHL)), (.adcAIX d, .sbcAIX d, .place (.mem (.atIX d))),
        (.adcAIY d, .sbcAIY d, .place (.mem (.atIY d)))],
      s.canRead e.2.2 = true → isBcd s.regs.a = true → isBcd (s.byteOf e.2.2) = true →
      let x := bcdValue s.regs.a
      let y := bcdValue (s.byteOf e.2.2) + if s.flags.cf = true then 1 else 0
      (∃ t u, exec e.1 s = .next t ∧ exec .daa t = .next u ∧ isBcd u.regs.a = true ∧
        bcdValue u.regs.a = (x + y) % 100 ∧ (u.flags.cf = true ↔ 100 ≤ x + y)) ∧
      (∃ t u, exec e.2.1 s = .next t ∧ exec .daa t = .next u ∧ isBcd u.regs.a = true ∧
        bcdValue u.regs.a = (x + 100 - y) % 100 ∧ (u.flags.cf = true ↔ x < y))

/-- CPL and NEG complete in every state. CPL complements every bit of A and sets H and N alone; NEG takes A to 0 - A
mod 256 with the flags of that subtraction: C unless A was 0, P/V exactly for 80h, H unless A's low digit was 0, N = 1
(42_alu8.md R229, R230; H, P/V and C of NEG are the spec's general knowledge, log 25). -/
def Obligations.ComplementAndNegate : Prop :=
  ∀ s : State,
    exec .cpl s = .next { s with
      regs := { s.regs with a := ~~~s.regs.a }, flags := { s.flags with hf := true, nf := true }
      pc := s.pc + 1, inhibit := false } ∧
    ∃ f : Flags,
      exec .neg s = .next { s with
        regs := { s.regs with a := -s.regs.a }, flags := f, pc := s.pc + 2, inhibit := false } ∧
      (f.cf = true ↔ s.regs.a ≠ 0) ∧ (f.pf = true ↔ s.regs.a = 0x80) ∧
      (f.hf = true ↔ s.regs.a.toNat % 16 ≠ 0) ∧ f.nf = true ∧
      (f.zf = true ↔ s.regs.a = 0) ∧ (f.sf = true ↔ (-s.regs.a).toInt < 0)

/-! ## 16-bit arithmetic -/

/-- ADD HL,ss, ADD IX,pp and ADD IY,rr complete in every state: the register takes the sum mod 2^16, C is the carry out
of bit 15, H is the carry out of the 8-bit addition of the high bytes with the carry of the low bytes, N = 0, and S, Z
and P/V are kept (43_arith16.md R240, R242, R244, R247, R248). -/
def Obligations.AddWordResult : Prop :=
  ∀ (s : State) (ss : RegDD) (pp : RegPP) (rr : RegRR),
    ∀ e ∈ [(Instr.addHLPair ss, Reg16.hl, ofDD ss, (1 : Word)), (.addIXPair pp, .ix, ofPP pp, 2),
        (.addIYPair rr, .iy, ofRR rr, 2)],
      let a := s.reg16 e.2.1
      let b := s.reg16 e.2.2.1
      let lowCarry := ((lowByte a).toNat + (lowByte b).toNat) / 256
      ∃ f : Flags, s.AnswersReg16 e.2.1 (a + b) f e.2.2.2 (exec e.1 s) ∧
        (f.cf = true ↔ 65536 ≤ a.toNat + b.toNat) ∧
        (f.hf = true ↔ 16 ≤ (highByte a).toNat % 16 + (highByte b).toNat % 16 + lowCarry) ∧
        f.nf = false ∧ f.sf = s.flags.sf ∧ f.zf = s.flags.zf ∧ f.pf = s.flags.pf

/-- ADC HL,ss and SBC HL,ss complete in every state and write all six flags from the 16-bit operation: S, Z, P/V and C
of the result, H the carry out of bit 11 or the borrow from bit 12, N = 0 or 1 (43_arith16.md R240 to R242, R245, R246;
the borrow convention is the spec's general knowledge, log 22). -/
def Obligations.AdcSbcWordResult : Prop :=
  ∀ (s : State) (ss : RegDD),
    let a := s.reg16 .hl
    let b := s.reg16 (ofDD ss)
    let c := if s.flags.cf = true then 1 else 0
    (∃ (w : Word) (f : Flags), s.AnswersReg16 .hl w f 2 (exec (.adcHLPair ss) s) ∧
      w.toNat = (a.toNat + b.toNat + c) % 65536 ∧ (f.cf = true ↔ 65536 ≤ a.toNat + b.toNat + c) ∧
      (f.hf = true ↔ 4096 ≤ a.toNat % 4096 + b.toNat % 4096 + c) ∧
      (f.pf = true ↔ a.toInt + b.toInt + c < -32768 ∨ 32767 < a.toInt + b.toInt + c) ∧
      (f.zf = true ↔ w = 0) ∧ (f.sf = true ↔ w.toInt < 0) ∧ f.nf = false) ∧
    (∃ (w : Word) (f : Flags), s.AnswersReg16 .hl w f 2 (exec (.sbcHLPair ss) s) ∧
      w.toNat = (a.toNat + 131072 - b.toNat - c) % 65536 ∧ (f.cf = true ↔ a.toNat < b.toNat + c) ∧
      (f.hf = true ↔ a.toNat % 4096 < b.toNat % 4096 + c) ∧
      (f.pf = true ↔ a.toInt - b.toInt - c < -32768 ∨ 32767 < a.toInt - b.toInt - c) ∧
      (f.zf = true ↔ w = 0) ∧ (f.sf = true ↔ w.toInt < 0) ∧ f.nf = true)

/-- INC and DEC of a 16-bit register or pair complete in every state: it takes the next or the previous value mod 2^16
and no flag is written (43_arith16.md R249 to R254). -/
def Obligations.IncDecWordResult : Prop :=
  ∀ (s : State) (ss : RegDD),
    (∀ e ∈ [(Instr.incPair ss, ofDD ss, (1 : Word)), (.incIX16, .ix, 2), (.incIY16, .iy, 2)],
      s.AnswersReg16 e.2.1 (s.reg16 e.2.1 + 1) s.flags e.2.2 (exec e.1 s)) ∧
    (∀ e ∈ [(Instr.decPair ss, ofDD ss, (1 : Word)), (.decIX16, .ix, 2), (.decIY16, .iy, 2)],
      s.AnswersReg16 e.2.1 (s.reg16 e.2.1 - 1) s.flags e.2.2 (exec e.1 s))

/-! ## Control -/

/-- CCF, SCF, NOP, HALT, DI and EI complete in every state. CCF complements C, clears N and leaves anything in H; SCF
sets C and clears H and N; NOP changes nothing but pc and inhibit; HALT stops the processor with pc past it; DI and EI
write IFF and set inhibit (44_cpu_control.md R260 to R265; where pc stands after HALT is the spec's decision D9; the
free H is log 6). -/
def Obligations.ControlResult : Prop :=
  ∀ s : State,
    (∃ (h : Bool) (draws : Nat), exec .ccf s = .next { s with
      flags := { s.flags with hf := h, nf := false, cf := !s.flags.cf }
      pc := s.pc + 1, inhibit := false, draws := draws }) ∧
    exec .scf s = .next { s with
      flags := { s.flags with hf := false, nf := false, cf := true }, pc := s.pc + 1, inhibit := false } ∧
    exec .nop s = .next { s with pc := s.pc + 1, inhibit := false } ∧
    exec .halt s = .next { s with pc := s.pc + 1, inhibit := false, halted := true } ∧
    exec .di s = .next { s with pc := s.pc + 1, inhibit := true, iff := false } ∧
    exec .ei s = .next { s with pc := s.pc + 1, inhibit := true, iff := true }

/-- The jumps complete in every state and change pc and inhibit alone: JP nn and JP (HL), (IX), (IY) go to nn or to the
register's value, and JP cc,nn goes to nn exactly when its condition holds, else past its three bytes
(45_jump.md R270 to R275). -/
def Obligations.JumpResult : Prop :=
  ∀ (s : State) (nn : Word),
    (∀ e ∈ [(Instr.jp nn, nn), (.jpHL, word s.regs.h s.regs.l), (.jpIX, s.ix), (.jpIY, s.iy)],
      exec e.1 s = .next { s with pc := e.2, inhibit := false }) ∧
    ∀ e ∈ [(Cond.nz, !s.flags.zf), (.z, s.flags.zf), (.nc, !s.flags.cf), (.c, s.flags.cf), (.po, !s.flags.pf),
        (.pe, s.flags.pf), (.p, !s.flags.sf), (.m, s.flags.sf)],
      exec (.jpCond e.1 nn) s = .next { s with pc := if e.2 then nn else s.pc + 3, inhibit := false }

/-- CALL nn, CALL cc,nn with its condition true, and RST p complete wherever both stack bytes are RAM or ROM: the address
of the next instruction goes to SP - 1 (high byte) and SP - 2 (low byte), SP falls by 2, pc takes the target, nothing
else changes but inhibit; CALL cc,nn with its condition false completes in every state and only moves past its three
bytes (46_call_return.md R281, R282, R285, 45_jump.md R270; the address pushed is the spec's inference R280, log 33).
For RST p the target is p. -/
def Obligations.CallAndRestartResult : Prop :=
  ∀ (s : State) (nn : Word) (cc : Cond) (t : BitVec 3),
    (s.canAccess (s.sp - 1) = true → s.canAccess (s.sp - 2) = true →
      ∀ e ∈ [(Instr.call nn, true, nn, s.pc + 3), (.callCond cc nn, s.flags.holds cc, nn, s.pc + 3),
          (.rst (BitVec.ofNat 16 (8 * t.toNat)), true, BitVec.ofNat 16 (8 * t.toNat), s.pc + 1)],
        e.2.1 = true →
        s.AnswersStoring [(s.sp - 1, highByte e.2.2.2), (s.sp - 2, lowByte e.2.2.2)]
          (fun mem => { s with mem := mem, sp := s.sp - 2, pc := e.2.2.1, inhibit := false }) (exec e.1 s)) ∧
    (s.flags.holds cc = false →
      exec (.callCond cc nn) s = .next { s with pc := s.pc + 3, inhibit := false })

/-- RET, and RET cc with its condition true, complete wherever both stack bytes can be read: pc takes the byte at SP as
its low and the byte at SP + 1 as its high byte, SP rises by 2, nothing else changes but inhibit; RET cc with its
condition false completes in every state and only moves past its byte (46_call_return.md R283, R284). -/
def Obligations.ReturnResult : Prop :=
  ∀ (s : State) (cc : Cond),
    (s.canAccess s.sp = true → s.canAccess (s.sp + 1) = true →
      ∀ e ∈ [(Instr.ret, true), (.retCond cc, s.flags.holds cc)], e.2 = true →
        exec e.1 s = .next { s with
          pc := word (s.peek (s.sp + 1)) (s.peek s.sp), sp := s.sp + 2, inhibit := false }) ∧
    (s.flags.holds cc = false → exec (.retCond cc) s = .next { s with pc := s.pc + 1, inhibit := false })

/-- A subroutine that is RET alone returns to the instruction after its CALL, with SP, the registers and the flags as
they were, when the stack is RAM (46_call_return.md R280 to R283, 20_memory.md R59; the address pushed is the spec's
inference R280, log 33). -/
def Obligations.CallThenRetReturns : Prop :=
  ∀ (s : State) (nn : Word), s.kindAt (s.sp - 1) = .ram → s.kindAt (s.sp - 2) = .ram →
    ∀ e ∈ [(Instr.call nn, s.pc + 3), (.rst nn, s.pc + 1)],
      ∃ t u, exec e.1 s = .next t ∧ exec .ret t = .next u ∧
        u = { s with mem := t.mem, pc := e.2, inhibit := false }

/-! ## Shifts, rotates and bits -/

/-- RLCA, RLA, RRCA and RRA complete in every state: A is rotated by one place, C takes the bit shifted out, H and N are
0, and S, Z and P/V are kept (47_shift_rotate.md R290, R291, R294 to R297; the direction of the bits is the spec's
general knowledge, log 23). -/
def Obligations.AccumulatorRotateResult : Prop :=
  ∀ s : State,
    let a := s.regs.a.toNat
    let c := if s.flags.cf = true then 1 else 0
    ∀ e ∈ [(Instr.rlca, 2 * a % 256 + a / 128, a / 128), (.rla, 2 * a % 256 + c, a / 128),
        (.rrca, a / 2 + 128 * (a % 2), a % 2), (.rra, a / 2 + 128 * c, a % 2)],
      exec e.1 s = .next { s with
        regs := { s.regs with a := BitVec.ofNat 8 e.2.1 }
        flags := { s.flags with hf := false, nf := false, cf := decide (e.2.2 = 1) }
        pc := s.pc + 1, inhibit := false }

/-- RLC, RL, RRC, RR, SLA, SRA and SRL of a register, of the byte at HL and of an indexed byte complete wherever the
operand is a register, RAM or ROM: the operand is shifted by one place, C takes the bit shifted out, S, Z and the parity
describe the result, H and N are 0 (47_shift_rotate.md R290, R291, R298 to R313, R316 to R327; the direction of the bits
is the spec's general knowledge, log 23). -/
def Obligations.ShiftRotateResult : Prop :=
  ∀ (s : State) (r : Reg8) (d : Byte),
    let inC := if s.flags.cf = true then 1 else 0
    ∀ e ∈ [(Instr.rlcReg r, Instr.rlcHL, Instr.rlcIX d, Instr.rlcIY d,
          fun v : Nat => (2 * v % 256 + v / 128, v / 128)),
        (.rlReg r, .rlHL, .rlIX d, .rlIY d, fun v => (2 * v % 256 + inC, v / 128)),
        (.rrcReg r, .rrcHL, .rrcIX d, .rrcIY d, fun v => (v / 2 + 128 * (v % 2), v % 2)),
        (.rrReg r, .rrHL, .rrIX d, .rrIY d, fun v => (v / 2 + 128 * inC, v % 2)),
        (.slaReg r, .slaHL, .slaIX d, .slaIY d, fun v => (2 * v % 256, v / 128)),
        (.sraReg r, .sraHL, .sraIX d, .sraIY d, fun v => (v / 2 + 128 * (v / 128), v % 2)),
        (.srlReg r, .srlHL, .srlIX d, .srlIY d, fun v => (v / 2, v % 2))],
      ∀ q ∈ [(e.1, Place.reg r, (2 : Word)), (e.2.1, .mem .atHL, 2), (e.2.2.1, .mem (.atIX d), 4),
          (e.2.2.2.1, .mem (.atIY d), 4)],
        s.canRead (.place q.2.1) = true →
        let out := e.2.2.2.2 (s.byteOf (.place q.2.1)).toNat
        let res := BitVec.ofNat 8 out.1
        s.AnswersPlace q.2.1 res
          { sf := decide (res.toInt < 0), zf := decide (res = 0), hf := false
            pf := ((List.range 8).countP fun k => res.getLsbD k) % 2 == 0, nf := false, cf := out.2 == 1 }
          q.2.2 (exec q.1 s)

/-- RLD and RRD complete wherever the byte at HL is RAM or ROM: the low digit of A and the two digits of the byte rotate
left or right, the high digit of A stays, S, Z and the parity describe the new A, H and N are 0, C is kept
(47_shift_rotate.md R291, R314, R315: the operation is the spec's general knowledge, log 23). -/
def Obligations.DigitRotateResult : Prop :=
  ∀ s : State, s.canAccess (s.address .atHL) = true →
    let t := (s.peek (s.address .atHL)).toNat
    let a := s.regs.a.toNat
    ∀ e ∈ [(Instr.rld, 16 * (t % 16) + a % 16, 16 * (a / 16) + t / 16),
        (.rrd, 16 * (a % 16) + t / 16, 16 * (a / 16) + t % 16)],
      let res := BitVec.ofNat 8 e.2.2
      s.AnswersStoring [(s.address .atHL, BitVec.ofNat 8 e.2.1)]
        (fun mem => { s with
          mem := mem, regs := { s.regs with a := res }
          flags :=
            { sf := decide (res.toInt < 0), zf := decide (res = 0), hf := false
              pf := ((List.range 8).countP fun k => res.getLsbD k) % 2 == 0, nf := false, cf := s.flags.cf }
          pc := s.pc + 2, inhibit := false })
        (exec e.1 s)

/-- BIT completes wherever the operand can be read and writes flags alone: Z is the complement of the tested bit, H = 1,
N = 0, C is kept, and S and P/V may be anything (48_bit.md R340 to R344; the free flags are log 6). -/
def Obligations.BitTestResult : Prop :=
  ∀ (s : State) (b : BitIndex) (r : Reg8) (d : Byte),
    ∀ e ∈ [(Instr.bitReg b r, Place.reg r, (2 : Word)), (.bitHL b, .mem .atHL, 2), (.bitIX b d, .mem (.atIX d), 4),
        (.bitIY b d, .mem (.atIY d), 4)],
      s.canRead (.place e.2.1) = true →
      ∃ (sf pf : Bool) (draws : Nat), exec e.1 s = .next { s with
        flags :=
          { sf := sf, zf := !(s.byteOf (.place e.2.1)).getLsbD b.toNat, hf := true, pf := pf
            nf := false, cf := s.flags.cf }
        pc := s.pc + e.2.2, inhibit := false, draws := draws }

/-- SET and RES complete wherever the operand is a register, RAM or ROM: bit b of it becomes 1 or 0, its other bits and
all flags are as before (48_bit.md R340, R345 to R352). -/
def Obligations.SetResBitResult : Prop :=
  ∀ (s : State) (b : BitIndex) (r : Reg8) (d : Byte),
    ∀ e ∈ [(Instr.setReg b r, Place.reg r, (2 : Word), true), (.setHL b, .mem .atHL, 2, true),
        (.setIX b d, .mem (.atIX d), 4, true), (.setIY b d, .mem (.atIY d), 4, true),
        (.resReg b r, .reg r, 2, false), (.resHL b, .mem .atHL, 2, false),
        (.resIX b d, .mem (.atIX d), 4, false), (.resIY b d, .mem (.atIY d), 4, false)],
      s.canRead (.place e.2.1) = true →
      ∃ v : Byte, s.AnswersPlace e.2.1 v s.flags e.2.2.1 (exec e.1 s) ∧
        ∀ k, k < 8 →
          v.getLsbD k = if k = b.toNat then e.2.2.2 else (s.byteOf (.place e.2.1)).getLsbD k

/-! ## Input and output -/

/-- IN A,(n) and IN r,(C) complete wherever the platform answers the port: exactly one port read is made, of port n or
of the port that C named before, and the register takes its byte, State.portValue: the platform's answer to this read
if it lists one, as the statement also says, else a free value (log 7). IN A,(n) writes no flag; IN r,(C) sets S, Z and
the parity from the byte, clears H and N and keeps C (49_io.md R360 to R362, 20_memory.md R61). -/
def Obligations.InputResult : Prop :=
  ∀ (s : State) (r : Reg8) (n : Byte),
    (s.canUsePort n = true →
      ({ s with ioReads := s.ioReads + 1 } : State).AnswersReg8 .a (s.portValue n) s.flags 2
        (exec (.inAImm n) s)) ∧
    (s.canUsePort s.regs.c = true →
      let v := s.portValue s.regs.c
      ({ s with ioReads := s.ioReads + 1 } : State).AnswersReg8 r v
        { sf := decide (v.toInt < 0), zf := decide (v = 0), hf := false
          pf := ((List.range 8).countP fun k => v.getLsbD k) % 2 == 0, nf := false, cf := s.flags.cf }
        2 (exec (.inRegC r) s)) ∧
    ∀ (v : Byte) (more : List IoAnswer),
      s.platform.ioIn = { port := n, index := s.ioReads, value := v } :: more → s.portValue n = v

/-- OUT (n),A and OUT (C),r complete wherever the platform defines the port: exactly one pair, the port and the
register's byte, is appended to the output trace, and nothing else changes but pc and inhibit (49_io.md R360, R363,
R364; 20_memory.md R61; the trace is the spec's decision D13). -/
def Obligations.OutputResult : Prop :=
  ∀ (s : State) (r : Reg8) (n : Byte),
    ∀ e ∈ [(Instr.outImmA n, n, s.regs.a), (.outCReg r, s.regs.c, s.reg8 r)], s.canUsePort e.2.1 = true →
      exec e.1 s = .next { s with ioOut := s.ioOut ++ [(e.2.1, e.2.2)], pc := s.pc + 2, inhibit := false }
end

