-- ==== Sys2Proof/Laws/Bits.lean ====
section
/-! SUPPORT. The small lemmas of Machine/Bits.lean: joining and splitting words, operation bytes and digits. -/

namespace Sys2Proof.Machine

@[simp] theorem highByte_word (hi lo : Byte) : highByte (word hi lo) = hi := by
  apply BitVec.eq_of_getLsbD_eq
  intro i h
  simp only [highByte, word, BitVec.getLsbD_extractLsb', BitVec.getLsbD_append]
  have : ¬ 8 + i < 8 := by omega
  simp [h, this]

@[simp] theorem lowByte_word (hi lo : Byte) : lowByte (word hi lo) = lo := by
  apply BitVec.eq_of_getLsbD_eq
  intro i h
  simp only [lowByte, word, BitVec.getLsbD_extractLsb', BitVec.getLsbD_append]
  simp [h]

@[simp] theorem word_highByte_lowByte (w : Word) : word (highByte w) (lowByte w) = w := by
  apply BitVec.eq_of_getLsbD_eq
  intro i h
  simp only [highByte, lowByte, word, BitVec.getLsbD_extractLsb', BitVec.getLsbD_append]
  by_cases hi : i < 8
  · simp [hi]
  · have : i - 8 < 8 := by omega
    have : 8 + (i - 8) = i := by omega
    simp [*]

theorem word_toNat (hi lo : Byte) : (word hi lo).toNat = 256 * hi.toNat + lo.toNat := by
  have := lo.isLt
  simp only [word, BitVec.toNat_append, Nat.shiftLeft_eq]
  rw [← Nat.shiftLeft_eq, ← Nat.shiftLeft_add_eq_or_of_lt (by simpa using this), Nat.shiftLeft_eq]
  omega

@[simp] theorem groupX_opByte (x : BitVec 2) (y z : BitVec 3) : groupX (opByte x y z) = x := by
  revert x y z; decide

@[simp] theorem groupY_opByte (x : BitVec 2) (y z : BitVec 3) : groupY (opByte x y z) = y := by
  revert x y z; decide

@[simp] theorem groupZ_opByte (x : BitVec 2) (y z : BitVec 3) : groupZ (opByte x y z) = z := by
  revert x y z; decide

/-- An operation byte is its three groups (30_encoding.md R81). -/
theorem opByte_groups (op : Byte) : opByte (groupX op) (groupY op) (groupZ op) = op := by
  revert op; decide

@[simp] theorem groupX_opPair (x p : BitVec 2) (q : BitVec 1) (z : BitVec 3) : groupX (opPair x p q z) = x := by
  revert x p q z; decide

@[simp] theorem pairField_opPair (x p : BitVec 2) (q : BitVec 1) (z : BitVec 3) :
    pairField (opPair x p q z) = p := by
  revert x p q z; decide

@[simp] theorem groupZ_opPair (x p : BitVec 2) (q : BitVec 1) (z : BitVec 3) : groupZ (opPair x p q z) = z := by
  revert x p q z; decide

@[simp] theorem lowDigit_digits (hi lo : BitVec 4) : lowDigit (digits hi lo) = lo := by
  revert hi lo; decide

@[simp] theorem highDigit_digits (hi lo : BitVec 4) : highDigit (digits hi lo) = hi := by
  revert hi lo; decide

@[simp] theorem digits_highDigit_lowDigit (v : Byte) : digits (highDigit v) (lowDigit v) = v := by
  revert v; decide

end Sys2Proof.Machine
end

