-- ==== Sys2Proof/Laws/Memory.lean ====
section
/-! SUPPORT. Memory reads what was last written, a write leaves every other address alone, and every operation keeps the
canonical form. -/

namespace Sys2Proof.Machine

/-- What a list of entries reads as at a key, the form the inductions below use. -/
theorem Memory.read_cons (cell : Host.Cell) (m : Memory) (a : Word) :
    Memory.read (cell :: m) a = if cell.1 = a.toNat then cell.2 else Memory.read m a := rfl

theorem Memory.erase_cons (cell : Host.Cell) (m : Memory) (key : Nat) :
    Memory.erase (cell :: m) key = if cell.1 = key then Memory.erase m key else cell :: Memory.erase m key := rfl

theorem Memory.insert_cons (cell : Host.Cell) (m : Memory) (key : Nat) (v : Byte) :
    Memory.insert (cell :: m) key v =
      if key < cell.1 then (key, v) :: cell :: m else cell :: Memory.insert m key v := rfl

theorem Memory.read_erase_same (m : Memory) (a : Word) :
    Memory.read (m.erase a.toNat) a = Config.powerUpByte := by
  induction m with
  | nil => rfl
  | cons cell rest ih =>
    rw [Memory.erase_cons]
    split
    · exact ih
    · rename_i h
      rw [Memory.read_cons, if_neg h]
      exact ih

theorem Memory.read_erase_other (m : Memory) {a b : Word} (h : b ≠ a) :
    Memory.read (m.erase a.toNat) b = m.read b := by
  have hn : a.toNat ≠ b.toNat := fun e => h (BitVec.eq_of_toNat_eq e.symm)
  induction m with
  | nil => rfl
  | cons cell rest ih =>
    rw [Memory.erase_cons, Memory.read_cons]
    split
    · rename_i e
      rw [if_neg (by omega)]
      exact ih
    · rw [Memory.read_cons, ih]

theorem Memory.read_insert_same (m : Memory) (a : Word) (v : Byte)
    (h : ∀ cell ∈ m, cell.1 ≠ a.toNat) : Memory.read (m.insert a.toNat v) a = v := by
  induction m with
  | nil => simp [Memory.insert, Memory.read]
  | cons cell rest ih =>
    rw [Memory.insert_cons]
    split
    · simp [Memory.read_cons]
    · rw [Memory.read_cons, if_neg (h cell (by simp))]
      exact ih fun c hc => h c (by simp [hc])

theorem Memory.read_insert_other (m : Memory) {a b : Word} (v : Byte) (h : b ≠ a) :
    Memory.read (m.insert a.toNat v) b = m.read b := by
  have hn : a.toNat ≠ b.toNat := fun e => h (BitVec.eq_of_toNat_eq e.symm)
  induction m with
  | nil => simp [Memory.insert, Memory.read, hn]
  | cons cell rest ih =>
    rw [Memory.insert_cons]
    split
    · rw [Memory.read_cons, if_neg hn]
    · rw [Memory.read_cons, Memory.read_cons, ih]

theorem Memory.erase_absent (m : Memory) (key : Nat) : ∀ cell ∈ m.erase key, cell.1 ≠ key := by
  induction m with
  | nil => simp [Memory.erase]
  | cons cell rest ih =>
    rw [Memory.erase_cons]
    split
    · exact ih
    · rename_i h
      intro c hc
      rcases List.mem_cons.1 hc with rfl | hc
      · exact h
      · exact ih c hc

theorem Memory.wfAbove_cons (low : Nat) (cell : Host.Cell) (m : Memory) :
    Memory.wfAbove low (cell :: m) = true ↔
      low ≤ cell.1 ∧ cell.1 < 65536 ∧ cell.2 ≠ Config.powerUpByte ∧ Memory.wfAbove (cell.1 + 1) m = true := by
  simp [Memory.wfAbove, and_assoc]

theorem Memory.wfAbove_mono {low low' : Nat} {m : Memory} (h : m.wfAbove low = true) (hl : low' ≤ low) :
    m.wfAbove low' = true := by
  cases m with
  | nil => rfl
  | cons cell rest =>
    rw [Memory.wfAbove_cons] at h ⊢
    exact ⟨by omega, h.2⟩

theorem Memory.wfAbove_erase {low : Nat} {m : Memory} (key : Nat) (h : m.wfAbove low = true) :
    (m.erase key).wfAbove low = true := by
  induction m generalizing low with
  | nil => rfl
  | cons cell rest ih =>
    rw [Memory.wfAbove_cons] at h
    rw [Memory.erase_cons]
    split
    · exact Memory.wfAbove_mono (ih h.2.2.2) (by omega)
    · rw [Memory.wfAbove_cons]
      exact ⟨h.1, h.2.1, h.2.2.1, ih h.2.2.2⟩

theorem Memory.wfAbove_insert {low key : Nat} {v : Byte} {m : Memory} (h : m.wfAbove low = true)
    (hk : low ≤ key) (hb : key < 65536) (hv : v ≠ Config.powerUpByte) (habs : ∀ cell ∈ m, cell.1 ≠ key) :
    (m.insert key v).wfAbove low = true := by
  induction m generalizing low with
  | nil => simp [Memory.insert, Memory.wfAbove, hk, hb, hv]
  | cons cell rest ih =>
    rw [Memory.wfAbove_cons] at h
    rw [Memory.insert_cons]
    have hne := habs cell (by simp)
    split
    · rename_i hlt
      rw [Memory.wfAbove_cons, Memory.wfAbove_cons]
      exact ⟨hk, hb, hv, by simp only; omega, h.2.1, h.2.2.1, h.2.2.2⟩
    · rw [Memory.wfAbove_cons]
      exact ⟨h.1, h.2.1, h.2.2.1, ih h.2.2.2 (by omega) fun c hc => habs c (by simp [hc])⟩

/-- A read after a write: the byte written at its own address, every other byte as before (20_memory.md R51). -/
theorem Memory.read_write (m : Memory) (a b : Word) (v : Byte) :
    (m.write a v).read b = if b = a then v else m.read b := by
  unfold Memory.write
  split <;> split
  · rename_i hv hb
    rw [hb, Memory.read_erase_same, hv]
  · rename_i hb
    exact Memory.read_erase_other m hb
  · rename_i hb
    rw [hb, Memory.read_insert_same _ _ _ (Memory.erase_absent m a.toNat)]
  · rename_i hb
    rw [Memory.read_insert_other _ _ hb, Memory.read_erase_other m hb]

/-- A write keeps the canonical form. -/
theorem Memory.write_wf {m : Memory} (a : Word) (v : Byte) (h : m.wf = true) : (m.write a v).wf = true := by
  unfold Memory.write
  split
  · exact Memory.wfAbove_erase _ h
  · rename_i hv
    exact Memory.wfAbove_insert (Memory.wfAbove_erase _ h) (Nat.zero_le _) a.isLt hv (Memory.erase_absent _ _)

/-- A read after a store: RAM holds the byte, ROM and every other address are as before (20_memory.md R51). -/
theorem State.peek_poke (s : State) (a b : Word) (v : Byte) :
    (s.poke a v).peek b = if b = a ∧ s.kindAt a = .ram then v else s.peek b := by
  unfold State.poke State.peek
  split <;> rename_i hk <;> simp [hk, Memory.read_write]

/-- Storing a byte keeps the canonical form, in RAM and in ROM. -/
theorem State.poke_wf {s : State} (a : Word) (v : Byte) (h : s.mem.wf = true) : (s.poke a v).mem.wf = true := by
  unfold State.poke
  split
  · exact Memory.write_wf a v h
  all_goals exact h

/-- Reset memory has the canonical form. -/
theorem State.reset_mem_wf : State.reset.mem.wf = true := rfl

end Sys2Proof.Machine
end

