-- ==== Sys2Proof/Laws/State.lean ====
section
/-! SUPPORT. One lemma per field per update of the state, so that no proof unfolds a record update. -/

namespace Sys2Proof.Machine

/-! ### setA -/

@[simp] theorem State.setA_regs (s : State) (v : Byte) : (s.setA v).regs = { s.regs with a := v } := rfl
@[simp] theorem State.setA_flags (s : State) (v : Byte) : (s.setA v).flags = s.flags := rfl
@[simp] theorem State.setA_ix (s : State) (v : Byte) : (s.setA v).ix = s.ix := rfl
@[simp] theorem State.setA_iy (s : State) (v : Byte) : (s.setA v).iy = s.iy := rfl
@[simp] theorem State.setA_sp (s : State) (v : Byte) : (s.setA v).sp = s.sp := rfl
@[simp] theorem State.setA_pc (s : State) (v : Byte) : (s.setA v).pc = s.pc := rfl
@[simp] theorem State.setA_iff (s : State) (v : Byte) : (s.setA v).iff = s.iff := rfl
@[simp] theorem State.setA_inhibit (s : State) (v : Byte) : (s.setA v).inhibit = s.inhibit := rfl
@[simp] theorem State.setA_halted (s : State) (v : Byte) : (s.setA v).halted = s.halted := rfl
@[simp] theorem State.setA_mem (s : State) (v : Byte) : (s.setA v).mem = s.mem := rfl
@[simp] theorem State.setA_platform (s : State) (v : Byte) : (s.setA v).platform = s.platform := rfl
@[simp] theorem State.setA_ioOut (s : State) (v : Byte) : (s.setA v).ioOut = s.ioOut := rfl
@[simp] theorem State.setA_ioReads (s : State) (v : Byte) : (s.setA v).ioReads = s.ioReads := rfl
@[simp] theorem State.setA_boundary (s : State) (v : Byte) : (s.setA v).boundary = s.boundary := rfl
@[simp] theorem State.setA_draws (s : State) (v : Byte) : (s.setA v).draws = s.draws := rfl

/-! ### setFlags -/

@[simp] theorem State.setFlags_regs (s : State) (f : Flags) : (s.setFlags f).regs = s.regs := rfl
@[simp] theorem State.setFlags_flags (s : State) (f : Flags) : (s.setFlags f).flags = f := rfl
@[simp] theorem State.setFlags_ix (s : State) (f : Flags) : (s.setFlags f).ix = s.ix := rfl
@[simp] theorem State.setFlags_iy (s : State) (f : Flags) : (s.setFlags f).iy = s.iy := rfl
@[simp] theorem State.setFlags_sp (s : State) (f : Flags) : (s.setFlags f).sp = s.sp := rfl
@[simp] theorem State.setFlags_pc (s : State) (f : Flags) : (s.setFlags f).pc = s.pc := rfl
@[simp] theorem State.setFlags_iff (s : State) (f : Flags) : (s.setFlags f).iff = s.iff := rfl
@[simp] theorem State.setFlags_inhibit (s : State) (f : Flags) : (s.setFlags f).inhibit = s.inhibit := rfl
@[simp] theorem State.setFlags_halted (s : State) (f : Flags) : (s.setFlags f).halted = s.halted := rfl
@[simp] theorem State.setFlags_mem (s : State) (f : Flags) : (s.setFlags f).mem = s.mem := rfl
@[simp] theorem State.setFlags_platform (s : State) (f : Flags) : (s.setFlags f).platform = s.platform := rfl
@[simp] theorem State.setFlags_ioOut (s : State) (f : Flags) : (s.setFlags f).ioOut = s.ioOut := rfl
@[simp] theorem State.setFlags_ioReads (s : State) (f : Flags) : (s.setFlags f).ioReads = s.ioReads := rfl
@[simp] theorem State.setFlags_boundary (s : State) (f : Flags) : (s.setFlags f).boundary = s.boundary := rfl
@[simp] theorem State.setFlags_draws (s : State) (f : Flags) : (s.setFlags f).draws = s.draws := rfl

/-! ### retire -/

@[simp] theorem State.retire_regs (s : State) (len : Word) : (s.retire len).regs = s.regs := rfl
@[simp] theorem State.retire_flags (s : State) (len : Word) : (s.retire len).flags = s.flags := rfl
@[simp] theorem State.retire_ix (s : State) (len : Word) : (s.retire len).ix = s.ix := rfl
@[simp] theorem State.retire_iy (s : State) (len : Word) : (s.retire len).iy = s.iy := rfl
@[simp] theorem State.retire_sp (s : State) (len : Word) : (s.retire len).sp = s.sp := rfl
@[simp] theorem State.retire_pc (s : State) (len : Word) : (s.retire len).pc = s.pc + len := rfl
@[simp] theorem State.retire_iff (s : State) (len : Word) : (s.retire len).iff = s.iff := rfl
@[simp] theorem State.retire_inhibit (s : State) (len : Word) : (s.retire len).inhibit = false := rfl
@[simp] theorem State.retire_halted (s : State) (len : Word) : (s.retire len).halted = s.halted := rfl
@[simp] theorem State.retire_mem (s : State) (len : Word) : (s.retire len).mem = s.mem := rfl
@[simp] theorem State.retire_platform (s : State) (len : Word) : (s.retire len).platform = s.platform := rfl
@[simp] theorem State.retire_ioOut (s : State) (len : Word) : (s.retire len).ioOut = s.ioOut := rfl
@[simp] theorem State.retire_ioReads (s : State) (len : Word) : (s.retire len).ioReads = s.ioReads := rfl
@[simp] theorem State.retire_boundary (s : State) (len : Word) : (s.retire len).boundary = s.boundary := rfl
@[simp] theorem State.retire_draws (s : State) (len : Word) : (s.retire len).draws = s.draws := rfl

/-! ### retireInhibited -/

@[simp] theorem State.retireInhibited_regs (s : State) (len : Word) : (s.retireInhibited len).regs = s.regs := rfl
@[simp] theorem State.retireInhibited_flags (s : State) (len : Word) : (s.retireInhibited len).flags = s.flags := rfl
@[simp] theorem State.retireInhibited_ix (s : State) (len : Word) : (s.retireInhibited len).ix = s.ix := rfl
@[simp] theorem State.retireInhibited_iy (s : State) (len : Word) : (s.retireInhibited len).iy = s.iy := rfl
@[simp] theorem State.retireInhibited_sp (s : State) (len : Word) : (s.retireInhibited len).sp = s.sp := rfl
@[simp] theorem State.retireInhibited_pc (s : State) (len : Word) : (s.retireInhibited len).pc = s.pc + len := rfl
@[simp] theorem State.retireInhibited_iff (s : State) (len : Word) : (s.retireInhibited len).iff = s.iff := rfl
@[simp] theorem State.retireInhibited_inhibit (s : State) (len : Word) : (s.retireInhibited len).inhibit = true := rfl
@[simp] theorem State.retireInhibited_halted (s : State) (len : Word) :
    (s.retireInhibited len).halted = s.halted := rfl
@[simp] theorem State.retireInhibited_mem (s : State) (len : Word) : (s.retireInhibited len).mem = s.mem := rfl
@[simp] theorem State.retireInhibited_platform (s : State) (len : Word) :
    (s.retireInhibited len).platform = s.platform := rfl
@[simp] theorem State.retireInhibited_ioOut (s : State) (len : Word) : (s.retireInhibited len).ioOut = s.ioOut := rfl
@[simp] theorem State.retireInhibited_ioReads (s : State) (len : Word) :
    (s.retireInhibited len).ioReads = s.ioReads := rfl
@[simp] theorem State.retireInhibited_boundary (s : State) (len : Word) :
    (s.retireInhibited len).boundary = s.boundary := rfl
@[simp] theorem State.retireInhibited_draws (s : State) (len : Word) : (s.retireInhibited len).draws = s.draws := rfl

/-! ### jumpTo -/

@[simp] theorem State.jumpTo_regs (s : State) (target : Word) : (s.jumpTo target).regs = s.regs := rfl
@[simp] theorem State.jumpTo_flags (s : State) (target : Word) : (s.jumpTo target).flags = s.flags := rfl
@[simp] theorem State.jumpTo_ix (s : State) (target : Word) : (s.jumpTo target).ix = s.ix := rfl
@[simp] theorem State.jumpTo_iy (s : State) (target : Word) : (s.jumpTo target).iy = s.iy := rfl
@[simp] theorem State.jumpTo_sp (s : State) (target : Word) : (s.jumpTo target).sp = s.sp := rfl
@[simp] theorem State.jumpTo_pc (s : State) (target : Word) : (s.jumpTo target).pc = target := rfl
@[simp] theorem State.jumpTo_iff (s : State) (target : Word) : (s.jumpTo target).iff = s.iff := rfl
@[simp] theorem State.jumpTo_inhibit (s : State) (target : Word) : (s.jumpTo target).inhibit = false := rfl
@[simp] theorem State.jumpTo_halted (s : State) (target : Word) : (s.jumpTo target).halted = s.halted := rfl
@[simp] theorem State.jumpTo_mem (s : State) (target : Word) : (s.jumpTo target).mem = s.mem := rfl
@[simp] theorem State.jumpTo_platform (s : State) (target : Word) : (s.jumpTo target).platform = s.platform := rfl
@[simp] theorem State.jumpTo_ioOut (s : State) (target : Word) : (s.jumpTo target).ioOut = s.ioOut := rfl
@[simp] theorem State.jumpTo_ioReads (s : State) (target : Word) : (s.jumpTo target).ioReads = s.ioReads := rfl
@[simp] theorem State.jumpTo_boundary (s : State) (target : Word) : (s.jumpTo target).boundary = s.boundary := rfl
@[simp] theorem State.jumpTo_draws (s : State) (target : Word) : (s.jumpTo target).draws = s.draws := rfl

/-! ### tick -/

@[simp] theorem State.tick_regs (s : State) : s.tick.regs = s.regs := rfl
@[simp] theorem State.tick_flags (s : State) : s.tick.flags = s.flags := rfl
@[simp] theorem State.tick_ix (s : State) : s.tick.ix = s.ix := rfl
@[simp] theorem State.tick_iy (s : State) : s.tick.iy = s.iy := rfl
@[simp] theorem State.tick_sp (s : State) : s.tick.sp = s.sp := rfl
@[simp] theorem State.tick_pc (s : State) : s.tick.pc = s.pc := rfl
@[simp] theorem State.tick_iff (s : State) : s.tick.iff = s.iff := rfl
@[simp] theorem State.tick_inhibit (s : State) : s.tick.inhibit = s.inhibit := rfl
@[simp] theorem State.tick_halted (s : State) : s.tick.halted = s.halted := rfl
@[simp] theorem State.tick_mem (s : State) : s.tick.mem = s.mem := rfl
@[simp] theorem State.tick_platform (s : State) : s.tick.platform = s.platform := rfl
@[simp] theorem State.tick_ioOut (s : State) : s.tick.ioOut = s.ioOut := rfl
@[simp] theorem State.tick_ioReads (s : State) : s.tick.ioReads = s.ioReads := rfl
@[simp] theorem State.tick_boundary (s : State) : s.tick.boundary = s.boundary + 1 := rfl
@[simp] theorem State.tick_draws (s : State) : s.tick.draws = s.draws := rfl

/-! ### applyReset -/

@[simp] theorem State.applyReset_regs (s : State) : s.applyReset.regs = Regs.reset := rfl
@[simp] theorem State.applyReset_flags (s : State) : s.applyReset.flags = Flags.reset := rfl
@[simp] theorem State.applyReset_ix (s : State) : s.applyReset.ix = Config.resetWord := rfl
@[simp] theorem State.applyReset_iy (s : State) : s.applyReset.iy = Config.resetWord := rfl
@[simp] theorem State.applyReset_sp (s : State) : s.applyReset.sp = Config.resetWord := rfl
@[simp] theorem State.applyReset_pc (s : State) : s.applyReset.pc = Config.resetPc := rfl
@[simp] theorem State.applyReset_iff (s : State) : s.applyReset.iff = false := rfl
@[simp] theorem State.applyReset_inhibit (s : State) : s.applyReset.inhibit = false := rfl
@[simp] theorem State.applyReset_halted (s : State) : s.applyReset.halted = false := rfl
@[simp] theorem State.applyReset_mem (s : State) : s.applyReset.mem = s.mem := rfl
@[simp] theorem State.applyReset_platform (s : State) : s.applyReset.platform = s.platform := rfl
@[simp] theorem State.applyReset_ioOut (s : State) : s.applyReset.ioOut = s.ioOut := rfl
@[simp] theorem State.applyReset_ioReads (s : State) : s.applyReset.ioReads = s.ioReads := rfl
@[simp] theorem State.applyReset_boundary (s : State) : s.applyReset.boundary = s.boundary := rfl
@[simp] theorem State.applyReset_draws (s : State) : s.applyReset.draws = s.draws := rfl

/-! ### setReg8 -/

@[simp] theorem State.setReg8_flags (s : State) (r : Reg8) (v : Byte) : (s.setReg8 r v).flags = s.flags := by
  cases r <;> rfl
@[simp] theorem State.setReg8_ix (s : State) (r : Reg8) (v : Byte) : (s.setReg8 r v).ix = s.ix := by
  cases r <;> rfl
@[simp] theorem State.setReg8_iy (s : State) (r : Reg8) (v : Byte) : (s.setReg8 r v).iy = s.iy := by
  cases r <;> rfl
@[simp] theorem State.setReg8_sp (s : State) (r : Reg8) (v : Byte) : (s.setReg8 r v).sp = s.sp := by
  cases r <;> rfl
@[simp] theorem State.setReg8_pc (s : State) (r : Reg8) (v : Byte) : (s.setReg8 r v).pc = s.pc := by
  cases r <;> rfl
@[simp] theorem State.setReg8_iff (s : State) (r : Reg8) (v : Byte) : (s.setReg8 r v).iff = s.iff := by
  cases r <;> rfl
@[simp] theorem State.setReg8_inhibit (s : State) (r : Reg8) (v : Byte) : (s.setReg8 r v).inhibit = s.inhibit := by
  cases r <;> rfl
@[simp] theorem State.setReg8_halted (s : State) (r : Reg8) (v : Byte) : (s.setReg8 r v).halted = s.halted := by
  cases r <;> rfl
@[simp] theorem State.setReg8_mem (s : State) (r : Reg8) (v : Byte) : (s.setReg8 r v).mem = s.mem := by
  cases r <;> rfl
@[simp] theorem State.setReg8_platform (s : State) (r : Reg8) (v : Byte) : (s.setReg8 r v).platform = s.platform := by
  cases r <;> rfl
@[simp] theorem State.setReg8_ioOut (s : State) (r : Reg8) (v : Byte) : (s.setReg8 r v).ioOut = s.ioOut := by
  cases r <;> rfl
@[simp] theorem State.setReg8_ioReads (s : State) (r : Reg8) (v : Byte) : (s.setReg8 r v).ioReads = s.ioReads := by
  cases r <;> rfl
@[simp] theorem State.setReg8_boundary (s : State) (r : Reg8) (v : Byte) : (s.setReg8 r v).boundary = s.boundary := by
  cases r <;> rfl
@[simp] theorem State.setReg8_draws (s : State) (r : Reg8) (v : Byte) : (s.setReg8 r v).draws = s.draws := by
  cases r <;> rfl

/-! ### setReg16 -/

@[simp] theorem State.setReg16_flags (s : State) (r : Reg16) (w : Word) : (s.setReg16 r w).flags = s.flags := by
  cases r <;> rfl
@[simp] theorem State.setReg16_pc (s : State) (r : Reg16) (w : Word) : (s.setReg16 r w).pc = s.pc := by
  cases r <;> rfl
@[simp] theorem State.setReg16_iff (s : State) (r : Reg16) (w : Word) : (s.setReg16 r w).iff = s.iff := by
  cases r <;> rfl
@[simp] theorem State.setReg16_inhibit (s : State) (r : Reg16) (w : Word) : (s.setReg16 r w).inhibit = s.inhibit := by
  cases r <;> rfl
@[simp] theorem State.setReg16_halted (s : State) (r : Reg16) (w : Word) : (s.setReg16 r w).halted = s.halted := by
  cases r <;> rfl
@[simp] theorem State.setReg16_mem (s : State) (r : Reg16) (w : Word) : (s.setReg16 r w).mem = s.mem := by
  cases r <;> rfl
@[simp] theorem State.setReg16_platform (s : State) (r : Reg16) (w : Word) :
    (s.setReg16 r w).platform = s.platform := by
  cases r <;> rfl
@[simp] theorem State.setReg16_ioOut (s : State) (r : Reg16) (w : Word) : (s.setReg16 r w).ioOut = s.ioOut := by
  cases r <;> rfl
@[simp] theorem State.setReg16_ioReads (s : State) (r : Reg16) (w : Word) : (s.setReg16 r w).ioReads = s.ioReads := by
  cases r <;> rfl
@[simp] theorem State.setReg16_boundary (s : State) (r : Reg16) (w : Word) :
    (s.setReg16 r w).boundary = s.boundary := by
  cases r <;> rfl
@[simp] theorem State.setReg16_draws (s : State) (r : Reg16) (w : Word) : (s.setReg16 r w).draws = s.draws := by
  cases r <;> rfl

/-! ### writeQQ -/

@[simp] theorem State.writeQQ_ix (s : State) (qq : RegQQ) (w : Word) : (s.writeQQ qq w).ix = s.ix := by
  cases qq <;> rfl
@[simp] theorem State.writeQQ_iy (s : State) (qq : RegQQ) (w : Word) : (s.writeQQ qq w).iy = s.iy := by
  cases qq <;> rfl
@[simp] theorem State.writeQQ_sp (s : State) (qq : RegQQ) (w : Word) : (s.writeQQ qq w).sp = s.sp := by
  cases qq <;> rfl
@[simp] theorem State.writeQQ_pc (s : State) (qq : RegQQ) (w : Word) : (s.writeQQ qq w).pc = s.pc := by
  cases qq <;> rfl
@[simp] theorem State.writeQQ_iff (s : State) (qq : RegQQ) (w : Word) : (s.writeQQ qq w).iff = s.iff := by
  cases qq <;> rfl
@[simp] theorem State.writeQQ_inhibit (s : State) (qq : RegQQ) (w : Word) : (s.writeQQ qq w).inhibit = s.inhibit := by
  cases qq <;> rfl
@[simp] theorem State.writeQQ_halted (s : State) (qq : RegQQ) (w : Word) : (s.writeQQ qq w).halted = s.halted := by
  cases qq <;> rfl
@[simp] theorem State.writeQQ_mem (s : State) (qq : RegQQ) (w : Word) : (s.writeQQ qq w).mem = s.mem := by
  cases qq <;> rfl
@[simp] theorem State.writeQQ_platform (s : State) (qq : RegQQ) (w : Word) :
    (s.writeQQ qq w).platform = s.platform := by
  cases qq <;> rfl
@[simp] theorem State.writeQQ_ioOut (s : State) (qq : RegQQ) (w : Word) : (s.writeQQ qq w).ioOut = s.ioOut := by
  cases qq <;> rfl
@[simp] theorem State.writeQQ_ioReads (s : State) (qq : RegQQ) (w : Word) : (s.writeQQ qq w).ioReads = s.ioReads := by
  cases qq <;> rfl
@[simp] theorem State.writeQQ_boundary (s : State) (qq : RegQQ) (w : Word) :
    (s.writeQQ qq w).boundary = s.boundary := by
  cases qq <;> rfl
@[simp] theorem State.writeQQ_draws (s : State) (qq : RegQQ) (w : Word) : (s.writeQQ qq w).draws = s.draws := by
  cases qq <;> rfl

/-! ### poke writes memory alone -/

@[simp] theorem State.poke_regs (s : State) (a : Word) (v : Byte) : (s.poke a v).regs = s.regs := by
  unfold State.poke; split <;> rfl
@[simp] theorem State.poke_flags (s : State) (a : Word) (v : Byte) : (s.poke a v).flags = s.flags := by
  unfold State.poke; split <;> rfl
@[simp] theorem State.poke_ix (s : State) (a : Word) (v : Byte) : (s.poke a v).ix = s.ix := by
  unfold State.poke; split <;> rfl
@[simp] theorem State.poke_iy (s : State) (a : Word) (v : Byte) : (s.poke a v).iy = s.iy := by
  unfold State.poke; split <;> rfl
@[simp] theorem State.poke_sp (s : State) (a : Word) (v : Byte) : (s.poke a v).sp = s.sp := by
  unfold State.poke; split <;> rfl
@[simp] theorem State.poke_pc (s : State) (a : Word) (v : Byte) : (s.poke a v).pc = s.pc := by
  unfold State.poke; split <;> rfl
@[simp] theorem State.poke_iff (s : State) (a : Word) (v : Byte) : (s.poke a v).iff = s.iff := by
  unfold State.poke; split <;> rfl
@[simp] theorem State.poke_inhibit (s : State) (a : Word) (v : Byte) : (s.poke a v).inhibit = s.inhibit := by
  unfold State.poke; split <;> rfl
@[simp] theorem State.poke_halted (s : State) (a : Word) (v : Byte) : (s.poke a v).halted = s.halted := by
  unfold State.poke; split <;> rfl
@[simp] theorem State.poke_platform (s : State) (a : Word) (v : Byte) : (s.poke a v).platform = s.platform := by
  unfold State.poke; split <;> rfl
@[simp] theorem State.poke_ioOut (s : State) (a : Word) (v : Byte) : (s.poke a v).ioOut = s.ioOut := by
  unfold State.poke; split <;> rfl
@[simp] theorem State.poke_ioReads (s : State) (a : Word) (v : Byte) : (s.poke a v).ioReads = s.ioReads := by
  unfold State.poke; split <;> rfl
@[simp] theorem State.poke_boundary (s : State) (a : Word) (v : Byte) : (s.poke a v).boundary = s.boundary := by
  unfold State.poke; split <;> rfl
@[simp] theorem State.poke_draws (s : State) (a : Word) (v : Byte) : (s.poke a v).draws = s.draws := by
  unfold State.poke; split <;> rfl

/-! ### Registers read after registers written -/

@[simp] theorem State.setReg8_reg8_same (s : State) (r : Reg8) (v : Byte) : (s.setReg8 r v).reg8 r = v := by
  cases r <;> rfl

theorem State.setReg8_reg8_other (s : State) {r q : Reg8} (v : Byte) (h : q ≠ r) :
    (s.setReg8 r v).reg8 q = s.reg8 q := by
  cases r <;> cases q <;> first | rfl | exact absurd rfl h

theorem State.setReg16_reg16_other (s : State) {r q : Reg16} (w : Word) (h : q ≠ r) :
    (s.setReg16 r w).reg16 q = s.reg16 q := by
  cases r <;> cases q <;> first | rfl | exact absurd rfl h

/-- A 16-bit register or pair is changed as a whole, and A is in none of them (10_state.md R21). -/
theorem State.setReg16_a (s : State) (r : Reg16) (w : Word) : (s.setReg16 r w).regs.a = s.regs.a := by
  cases r <;> rfl

@[simp] theorem State.poke_kindAt (s : State) (a b : Word) (v : Byte) : (s.poke a v).kindAt b = s.kindAt b := by
  simp [State.kindAt]

@[simp] theorem State.poke_canAccess (s : State) (a b : Word) (v : Byte) :
    (s.poke a v).canAccess b = s.canAccess b := by
  simp [State.canAccess]

@[simp] theorem State.poke_canUsePort (s : State) (a : Word) (v port : Byte) :
    (s.poke a v).canUsePort port = s.canUsePort port := by
  simp [State.canUsePort]

end Sys2Proof.Machine
end

