-- ==== Sys2Proof/Laws/Ops.lean ====
section
/-! SUPPORT. For each shared operation, once, everything it can do: when it answers a next state and which, and where an
access the platform does not define stops it. -/

namespace Sys2Proof.Machine

/-! ## Accesses -/

theorem State.load_of_access {s : State} {a : Word} (h : s.canAccess a = true) (k : Byte → Result) :
    s.load a k = k (s.peek a) := by simp [State.load, h]

theorem State.load_of_no_access {s : State} {a : Word} (h : s.canAccess a = false) (k : Byte → Result) :
    s.load a k = .fault (.platformFault (.memRead a) s.mem) := by simp [State.load, h]

theorem State.load_next {s t : State} {a : Word} {k : Byte → Result} :
    s.load a k = .next t ↔ s.canAccess a = true ∧ k (s.peek a) = .next t := by
  unfold State.load; split <;> simp_all

theorem State.store_of_access {s : State} {a : Word} (h : s.canAccess a = true) (v : Byte) (k : State → Result) :
    s.store a v k = k (s.poke a v) := by simp [State.store, h]

theorem State.store_of_no_access {s : State} {a : Word} (h : s.canAccess a = false) (v : Byte)
    (k : State → Result) : s.store a v k = .fault (.platformFault (.memWrite a) s.mem) := by
  simp [State.store, h]

theorem State.store_next {s t : State} {a : Word} {v : Byte} {k : State → Result} :
    s.store a v k = .next t ↔ s.canAccess a = true ∧ k (s.poke a v) = .next t := by
  unfold State.store; split <;> simp_all

theorem State.load16_next {s t : State} {a : Word} {k : Word → Result} :
    s.load16 a k = .next t ↔
      s.canAccess a = true ∧ s.canAccess (a + 1) = true ∧ k (word (s.peek (a + 1)) (s.peek a)) = .next t := by
  simp only [State.load16, State.load_next]

theorem State.store16_next {s t : State} {a w : Word} {k : State → Result} :
    s.store16 a w k = .next t ↔
      s.canAccess a = true ∧ s.canAccess (a + 1) = true ∧
        k ((s.poke a (lowByte w)).poke (a + 1) (highByte w)) = .next t := by
  simp only [State.store16, State.store_next, State.poke_canAccess]

theorem State.input_next {s t : State} {port : Byte} {k : Byte → State → Result} :
    s.input port k = .next t ↔
      s.canUsePort port = true ∧ k (s.portValue port) { s with ioReads := s.ioReads + 1 } = .next t := by
  unfold State.input; split <;> simp_all

theorem State.output_next {s t : State} {port v : Byte} {k : State → Result} :
    s.output port v k = .next t ↔
      s.canUsePort port = true ∧ k { s with ioOut := s.ioOut ++ [(port, v)] } = .next t := by
  unfold State.output; split <;> simp_all

/-! ## The stack -/

/-- The state after a push (20_memory.md R59): the high byte at SP - 1, the low byte at SP - 2. -/
def State.pushed (s : State) (w : Word) : State :=
  { (({ s with sp := s.sp - 1 }.poke (s.sp - 1) (highByte w)).poke (s.sp - 2) (lowByte w)) with sp := s.sp - 2 }

theorem pred_pred (w : Word) : w - 1 - 1 = w - 2 := by
  rw [BitVec.sub_sub]; rfl

/-- A store does not look at SP. -/
theorem State.poke_withSp (s : State) (p a : Word) (v : Byte) :
    ({ s with sp := p } : State).poke a v = { s.poke a v with sp := p } := by
  have hk : ({ s with sp := p } : State).kindAt a = s.kindAt a := rfl
  unfold State.poke
  rw [hk]
  split <;> rfl

theorem State.push_next {s t : State} {w : Word} {k : State → Result} :
    s.push w k = .next t ↔
      s.canAccess (s.sp - 1) = true ∧ s.canAccess (s.sp - 2) = true ∧ k (s.pushed w) = .next t := by
  have h1 : ({ s with sp := s.sp - 1 } : State).canAccess (s.sp - 1) = s.canAccess (s.sp - 1) := rfl
  have h2 : ∀ u : State, ({ s with sp := s.sp - 1 }.poke (s.sp - 1) (highByte w)).canAccess u.sp
      = s.canAccess u.sp := fun u => by rw [State.poke_canAccess]; rfl
  have h3 : ∀ (u : State) (p a : Word), ({ u with sp := p } : State).canAccess a = u.canAccess a :=
    fun _ _ _ => rfl
  simp only [State.push, State.store_next, h1, h3, State.poke_sp, pred_pred, State.poke_canAccess]
  rw [State.poke_withSp]
  rfl

/-- A push whose first byte the platform does not define stops there with memory as before (60_exceptions.md R402). -/
theorem State.push_fault_first {s : State} {w : Word} {k : State → Result} (h : s.canAccess (s.sp - 1) = false) :
    s.push w k = .fault (.platformFault (.memWrite (s.sp - 1)) s.mem) := by
  simp only [State.push]
  exact State.store_of_no_access (s := { s with sp := s.sp - 1 }) h _ _

/-- A push whose second byte alone the platform does not define stops there with the first byte stored
(60_exceptions.md R402). -/
theorem State.push_fault_second {s : State} {w : Word} {k : State → Result} (h1 : s.canAccess (s.sp - 1) = true)
    (h2 : s.canAccess (s.sp - 2) = false) :
    s.push w k = .fault (.platformFault (.memWrite (s.sp - 2)) (s.poke (s.sp - 1) (highByte w)).mem) := by
  have hs : ({ s with sp := s.sp - 1 } : State).canAccess (s.sp - 1) = true := h1
  simp only [State.push]
  rw [State.store_of_access hs, State.poke_withSp]
  simp only [pred_pred]
  exact State.store_of_no_access (s := { s.poke (s.sp - 1) (highByte w) with sp := s.sp - 2 })
    ((State.poke_canAccess ..).trans h2) _ _

/-- A 16-bit store whose second byte alone the platform does not define stops there with the first byte stored
(60_exceptions.md R402). -/
theorem State.store16_fault_second {s : State} {a w : Word} {k : State → Result} (h1 : s.canAccess a = true)
    (h2 : s.canAccess (a + 1) = false) :
    s.store16 a w k = .fault (.platformFault (.memWrite (a + 1)) (s.poke a (lowByte w)).mem) := by
  simp only [State.store16]
  rw [State.store_of_access h1, State.store_of_no_access ((State.poke_canAccess ..).trans h2)]

theorem State.pop_next {s t : State} {k : Word → State → Result} :
    s.pop k = .next t ↔
      s.canAccess s.sp = true ∧ s.canAccess (s.sp + 1) = true ∧
        k (word (s.peek (s.sp + 1)) (s.peek s.sp)) { s with sp := s.sp + 1 + 1 } = .next t := by
  simp only [State.pop, State.load_next]
  rfl

/-! ## Operands -/

/-- The state after a byte goes to a place. -/
def State.putPlace (s : State) (p : Place) (v : Byte) : State :=
  match p with
  | .reg r => s.setReg8 r v
  | .mem m => s.poke (s.address m) v

/-- The platform defines the access to a place. -/
def State.reaches (s : State) (p : Place) : Prop :=
  match p with
  | .reg _ => True
  | .mem m => s.canAccess (s.address m) = true

/-- The byte of a place. -/
def State.getPlace (s : State) (p : Place) : Byte :=
  match p with
  | .reg r => s.reg8 r
  | .mem m => s.peek (s.address m)

theorem State.readPlace_next {s t : State} {p : Place} {k : Byte → Result} :
    s.readPlace p k = .next t ↔ s.reaches p ∧ k (s.getPlace p) = .next t := by
  cases p <;> simp [State.readPlace, State.load_next, State.reaches, State.getPlace]

theorem State.writePlace_next {s t : State} {p : Place} {v : Byte} {k : State → Result} :
    s.writePlace p v k = .next t ↔ s.reaches p ∧ k (s.putPlace p v) = .next t := by
  cases p <;> simp [State.writePlace, State.store_next, State.reaches, State.putPlace]

/-! ## The shapes instructions share -/

theorem next_eq_next {t u : State} : (Host.Outcome.next u : Result) = .next t ↔ t = u :=
  ⟨fun h => by cases h; rfl, fun h => by rw [h]⟩

theorem finish_next {s t : State} {len : Word} : s.finish len = .next t ↔ t = s.retire len := next_eq_next

theorem moveByte_next {s t : State} {dst : Place} {src : Source} {len : Word} :
    moveByte dst src len s = .next t ↔
      match src with
      | .place p => s.reaches p ∧ s.reaches dst ∧ t = (s.putPlace dst (s.getPlace p)).retire len
      | .imm n => s.reaches dst ∧ t = (s.putPlace dst n).retire len := by
  cases src <;>
    simp only [moveByte, State.readSource, State.readPlace_next, State.writePlace_next, finish_next]

theorem combineA_next {s t : State} {op : Byte → Byte → Flags → Byte × Flags} {src : Source} {len : Word} :
    combineA op src len s = .next t ↔
      match src with
      | .place p =>
        s.reaches p ∧ t = ((s.setA (op s.regs.a (s.getPlace p) s.flags).1).setFlags
          (op s.regs.a (s.getPlace p) s.flags).2).retire len
      | .imm n =>
        t = ((s.setA (op s.regs.a n s.flags).1).setFlags (op s.regs.a n s.flags).2).retire len := by
  cases src <;> simp only [combineA, State.readSource, State.readPlace_next, finish_next]

theorem changeA_next {s t : State} {op : Byte → Flags → Byte × Flags} {len : Word} :
    changeA op len s = .next t ↔
      t = ((s.setA (op s.regs.a s.flags).1).setFlags (op s.regs.a s.flags).2).retire len := by
  simp only [changeA, finish_next]

theorem modifyByte_next {s t : State} {op : Byte → Flags → Byte × Flags} {p : Place} {len : Word} :
    modifyByte op p len s = .next t ↔
      s.reaches p ∧ t = ((s.putPlace p (op (s.getPlace p) s.flags).1).setFlags
        (op (s.getPlace p) s.flags).2).retire len := by
  simp only [modifyByte, State.readPlace_next, State.writePlace_next, finish_next]
  exact ⟨fun h => ⟨h.1, h.2.2⟩, fun h => ⟨h.1, h.1, h.2⟩⟩

theorem testBit_next {s t : State} {b : BitIndex} {p : Place} {len : Word} :
    testBit b p len s = .next t ↔
      s.reaches p ∧ t = (({ s with draws := s.draws + 1 + 1 } : State).setFlags
        (bitFlags (s.getPlace p) b (Config.any1 s.draws) (Config.any1 (s.draws + 1)) s.flags)).retire len := by
  simp only [testBit, State.readPlace_next, State.anyBit, finish_next]

theorem assign16_next {s t : State} {dst : Reg16} {w len : Word} :
    assign16 dst w len s = .next t ↔ t = (s.setReg16 dst w).retire len := by
  simp only [assign16, finish_next]

theorem loadReg16_next {s t : State} {dst : Reg16} {nn len : Word} :
    loadReg16 dst nn len s = .next t ↔
      s.canAccess nn = true ∧ s.canAccess (nn + 1) = true ∧
        t = (s.setReg16 dst (word (s.peek (nn + 1)) (s.peek nn))).retire len := by
  simp only [loadReg16, State.load16_next, assign16_next]

theorem storeReg16_next {s t : State} {src : Reg16} {nn len : Word} :
    storeReg16 nn src len s = .next t ↔
      s.canAccess nn = true ∧ s.canAccess (nn + 1) = true ∧
        t = ((s.poke nn (lowByte (s.reg16 src))).poke (nn + 1) (highByte (s.reg16 src))).retire len := by
  simp only [storeReg16, State.store16_next, finish_next]

theorem pushReg16_next {s t : State} {src : Reg16} {len : Word} :
    pushReg16 src len s = .next t ↔
      s.canAccess (s.sp - 1) = true ∧ s.canAccess (s.sp - 2) = true ∧
        t = (s.pushed (s.reg16 src)).retire len := by
  simp only [pushReg16, State.push_next, finish_next]

theorem popReg16_next {s t : State} {dst : Reg16} {len : Word} :
    popReg16 dst len s = .next t ↔
      s.canAccess s.sp = true ∧ s.canAccess (s.sp + 1) = true ∧
        t = (({ s with sp := s.sp + 1 + 1 } : State).setReg16 dst
          (word (s.peek (s.sp + 1)) (s.peek s.sp))).retire len := by
  simp only [popReg16, State.pop_next, assign16_next]

theorem addReg16_next {s t : State} {dst src : Reg16} {len : Word} :
    addReg16 dst src len s = .next t ↔
      t = ((s.setReg16 dst (add16 (s.reg16 dst) (s.reg16 src) false).res).setFlags
        (addWordFlags (add16 (s.reg16 dst) (s.reg16 src) false) s.flags)).retire len := by
  simp only [addReg16, finish_next]

theorem callTo_next {s t : State} {target len : Word} :
    callTo target len s = .next t ↔
      s.canAccess (s.sp - 1) = true ∧ s.canAccess (s.sp - 2) = true ∧
        t = (s.pushed (s.pc + len)).jumpTo target := by
  simp only [callTo, State.push_next, next_eq_next]

theorem returnFromCall_next {s t : State} :
    s.returnFromCall = .next t ↔
      s.canAccess s.sp = true ∧ s.canAccess (s.sp + 1) = true ∧
        t = ({ s with sp := s.sp + 1 + 1 } : State).jumpTo (word (s.peek (s.sp + 1)) (s.peek s.sp)) := by
  simp only [State.returnFromCall, State.pop_next, next_eq_next]

theorem rotateDigits_next {s t : State} {op : Byte → Byte → Byte × Byte} :
    rotateDigits op s = .next t ↔
      s.canAccess (s.address .atHL) = true ∧
        t = (((s.poke (s.address .atHL) (op (s.peek (s.address .atHL)) s.regs.a).1).setA
            (op (s.peek (s.address .atHL)) s.regs.a).2).setFlags
          (byteFlags (op (s.peek (s.address .atHL)) s.regs.a).2 s.flags)).retire 2 := by
  simp only [rotateDigits, State.readPlace, State.writePlace, State.load_next, State.store_next, finish_next,
    State.poke_flags]
  exact ⟨fun h => ⟨h.1, h.2.2⟩, fun h => ⟨h.1, h.1, h.2⟩⟩

/-- Taking an interrupt answers a next state exactly when both stack bytes can be written (60_exceptions.md R406). -/
theorem interruptEntry_next {s t : State} :
    s.interruptEntry = .next t ↔
      s.canAccess (s.sp - 1) = true ∧ s.canAccess (s.sp - 2) = true ∧
        t = { ({ s with halted := false, iff := false, inhibit := false } : State).pushed s.pc with
          pc := s.platform.intVector } := by
  simp only [State.interruptEntry, State.push_next, next_eq_next]
  have hp : ∀ (u : State) (w : Word), (u.pushed w).platform = u.platform := fun u w => by simp [State.pushed]
  have h1 : ∀ a : Word, ({ s with halted := false, iff := false, inhibit := false } : State).canAccess a
      = s.canAccess a := fun _ => rfl
  simp only [hp, h1]

/-- What a push leaves in memory (20_memory.md R59): at SP - 1 the high byte, at SP - 2 the low byte, where RAM takes
them; every other byte as before. -/
theorem State.peek_pushed (s : State) (w x : Word) :
    (s.pushed w).peek x =
      if x = s.sp - 2 ∧ s.kindAt (s.sp - 2) = .ram then lowByte w
      else if x = s.sp - 1 ∧ s.kindAt (s.sp - 1) = .ram then highByte w
      else s.peek x := by
  have h : (s.pushed w).peek x =
      (({ s with sp := s.sp - 1 }.poke (s.sp - 1) (highByte w)).poke (s.sp - 2) (lowByte w)).peek x := rfl
  have hk : ∀ a, ({ s with sp := s.sp - 1 } : State).kindAt a = s.kindAt a := fun _ => rfl
  rw [h, State.peek_poke, State.peek_poke, State.poke_kindAt, hk, hk]
  rfl

/-- A push keeps the canonical form of memory. -/
theorem State.pushed_wf {s : State} (w : Word) (h : s.mem.wf = true) : (s.pushed w).mem.wf = true :=
  State.poke_wf _ _ (State.poke_wf _ _ h)

/-- Placing an image keeps the canonical form of memory. -/
theorem State.placeBytes_wf (bytes : List Byte) :
    ∀ (s : State) (a : Word), s.mem.wf = true → (s.placeBytes a bytes).mem.wf = true := by
  induction bytes with
  | nil => exact fun _ _ h => h
  | cons v rest ih => exact fun s a h => ih _ _ (Memory.write_wf a v h)

/-- The state for the host's word keeps the canonical form of memory. -/
theorem State.withFetchWord_wf {s : State} (nbits w : Nat) (h : s.mem.wf = true) :
    (s.withFetchWord nbits w).mem.wf = true := State.placeBytes_wf _ s _ h

end Sys2Proof.Machine
end

