-- ==== Sys2Proof/Laws/PerInstr.lean ====
section
/-! SUPPORT. What holds of each instruction as syntax, one lemma per constructor: its encoding is as long as the source's
Bytes column says (30_encoding.md R80, 70_reset_and_hazards.md R457). -/

/-- The encoding of the instruction has as many bytes as the source's Bytes column, whether or not a condition
holds. -/
def Sys2Proof.Laws.BytesColumn.Statement (i : Sys2Proof.Instr) : Prop :=
  ∀ taken, (Sys2Proof.encode i).length = (Sys2Proof.Machine.timing taken i).bytes

open Sys2Proof

namespace Sys2Proof.Laws.BytesColumn

theorem ldRegReg (r : Reg8) (r' : Reg8) : Statement (.ldRegReg r r') := fun _ => rfl
theorem ldRegImm (r : Reg8) (n : Byte) : Statement (.ldRegImm r n) := fun _ => rfl
theorem ldRegHL (r : Reg8) : Statement (.ldRegHL r) := fun _ => rfl
theorem ldRegIX (r : Reg8) (d : Byte) : Statement (.ldRegIX r d) := fun _ => rfl
theorem ldRegIY (r : Reg8) (d : Byte) : Statement (.ldRegIY r d) := fun _ => rfl
theorem ldHLReg (r : Reg8) : Statement (.ldHLReg r) := fun _ => rfl
theorem ldIXReg (d : Byte) (r : Reg8) : Statement (.ldIXReg d r) := fun _ => rfl
theorem ldIYReg (d : Byte) (r : Reg8) : Statement (.ldIYReg d r) := fun _ => rfl
theorem ldHLImm (n : Byte) : Statement (.ldHLImm n) := fun _ => rfl
theorem ldIXImm (d : Byte) (n : Byte) : Statement (.ldIXImm d n) := fun _ => rfl
theorem ldIYImm (d : Byte) (n : Byte) : Statement (.ldIYImm d n) := fun _ => rfl
theorem ldABC : Statement .ldABC := fun _ => rfl
theorem ldADE : Statement .ldADE := fun _ => rfl
theorem ldAMem (nn : Word) : Statement (.ldAMem nn) := fun _ => rfl
theorem ldBCA : Statement .ldBCA := fun _ => rfl
theorem ldDEA : Statement .ldDEA := fun _ => rfl
theorem ldMemA (nn : Word) : Statement (.ldMemA nn) := fun _ => rfl
theorem ldPairImm (dd : RegDD) (nn : Word) : Statement (.ldPairImm dd nn) := fun _ => rfl
theorem ldIXImm16 (nn : Word) : Statement (.ldIXImm16 nn) := fun _ => rfl
theorem ldIYImm16 (nn : Word) : Statement (.ldIYImm16 nn) := fun _ => rfl
theorem ldHLMem (nn : Word) : Statement (.ldHLMem nn) := fun _ => rfl
theorem ldPairMem (dd : RegDD) (nn : Word) : Statement (.ldPairMem dd nn) := fun _ => rfl
theorem ldIXMem (nn : Word) : Statement (.ldIXMem nn) := fun _ => rfl
theorem ldIYMem (nn : Word) : Statement (.ldIYMem nn) := fun _ => rfl
theorem ldMemHL (nn : Word) : Statement (.ldMemHL nn) := fun _ => rfl
theorem ldMemPair (nn : Word) (dd : RegDD) : Statement (.ldMemPair nn dd) := fun _ => rfl
theorem ldMemIX (nn : Word) : Statement (.ldMemIX nn) := fun _ => rfl
theorem ldMemIY (nn : Word) : Statement (.ldMemIY nn) := fun _ => rfl
theorem ldSPHL : Statement .ldSPHL := fun _ => rfl
theorem ldSPIX : Statement .ldSPIX := fun _ => rfl
theorem ldSPIY : Statement .ldSPIY := fun _ => rfl
theorem exDEHL : Statement .exDEHL := fun _ => rfl
theorem exSPHL : Statement .exSPHL := fun _ => rfl
theorem pushPair (qq : RegQQ) : Statement (.pushPair qq) := fun _ => rfl
theorem pushIX : Statement .pushIX := fun _ => rfl
theorem pushIY : Statement .pushIY := fun _ => rfl
theorem popPair (qq : RegQQ) : Statement (.popPair qq) := fun _ => rfl
theorem popIX : Statement .popIX := fun _ => rfl
theorem popIY : Statement .popIY := fun _ => rfl
theorem addAReg (r : Reg8) : Statement (.addAReg r) := fun _ => rfl
theorem addAImm (n : Byte) : Statement (.addAImm n) := fun _ => rfl
theorem addAHL : Statement .addAHL := fun _ => rfl
theorem addAIX (d : Byte) : Statement (.addAIX d) := fun _ => rfl
theorem addAIY (d : Byte) : Statement (.addAIY d) := fun _ => rfl
theorem adcAReg (r : Reg8) : Statement (.adcAReg r) := fun _ => rfl
theorem adcAImm (n : Byte) : Statement (.adcAImm n) := fun _ => rfl
theorem adcAHL : Statement .adcAHL := fun _ => rfl
theorem adcAIX (d : Byte) : Statement (.adcAIX d) := fun _ => rfl
theorem adcAIY (d : Byte) : Statement (.adcAIY d) := fun _ => rfl
theorem subAReg (r : Reg8) : Statement (.subAReg r) := fun _ => rfl
theorem subAImm (n : Byte) : Statement (.subAImm n) := fun _ => rfl
theorem subAHL : Statement .subAHL := fun _ => rfl
theorem subAIX (d : Byte) : Statement (.subAIX d) := fun _ => rfl
theorem subAIY (d : Byte) : Statement (.subAIY d) := fun _ => rfl
theorem sbcAReg (r : Reg8) : Statement (.sbcAReg r) := fun _ => rfl
theorem sbcAImm (n : Byte) : Statement (.sbcAImm n) := fun _ => rfl
theorem sbcAHL : Statement .sbcAHL := fun _ => rfl
theorem sbcAIX (d : Byte) : Statement (.sbcAIX d) := fun _ => rfl
theorem sbcAIY (d : Byte) : Statement (.sbcAIY d) := fun _ => rfl
theorem cpAReg (r : Reg8) : Statement (.cpAReg r) := fun _ => rfl
theorem cpAImm (n : Byte) : Statement (.cpAImm n) := fun _ => rfl
theorem cpAHL : Statement .cpAHL := fun _ => rfl
theorem cpAIX (d : Byte) : Statement (.cpAIX d) := fun _ => rfl
theorem cpAIY (d : Byte) : Statement (.cpAIY d) := fun _ => rfl
theorem andAReg (r : Reg8) : Statement (.andAReg r) := fun _ => rfl
theorem andAImm (n : Byte) : Statement (.andAImm n) := fun _ => rfl
theorem andAHL : Statement .andAHL := fun _ => rfl
theorem andAIX (d : Byte) : Statement (.andAIX d) := fun _ => rfl
theorem andAIY (d : Byte) : Statement (.andAIY d) := fun _ => rfl
theorem orAReg (r : Reg8) : Statement (.orAReg r) := fun _ => rfl
theorem orAImm (n : Byte) : Statement (.orAImm n) := fun _ => rfl
theorem orAHL : Statement .orAHL := fun _ => rfl
theorem orAIX (d : Byte) : Statement (.orAIX d) := fun _ => rfl
theorem orAIY (d : Byte) : Statement (.orAIY d) := fun _ => rfl
theorem xorAReg (r : Reg8) : Statement (.xorAReg r) := fun _ => rfl
theorem xorAImm (n : Byte) : Statement (.xorAImm n) := fun _ => rfl
theorem xorAHL : Statement .xorAHL := fun _ => rfl
theorem xorAIX (d : Byte) : Statement (.xorAIX d) := fun _ => rfl
theorem xorAIY (d : Byte) : Statement (.xorAIY d) := fun _ => rfl
theorem incReg (r : Reg8) : Statement (.incReg r) := fun _ => rfl
theorem incHL : Statement .incHL := fun _ => rfl
theorem incIX (d : Byte) : Statement (.incIX d) := fun _ => rfl
theorem incIY (d : Byte) : Statement (.incIY d) := fun _ => rfl
theorem decReg (r : Reg8) : Statement (.decReg r) := fun _ => rfl
theorem decHL : Statement .decHL := fun _ => rfl
theorem decIX (d : Byte) : Statement (.decIX d) := fun _ => rfl
theorem decIY (d : Byte) : Statement (.decIY d) := fun _ => rfl
theorem daa : Statement .daa := fun _ => rfl
theorem cpl : Statement .cpl := fun _ => rfl
theorem neg : Statement .neg := fun _ => rfl
theorem addHLPair (ss : RegDD) : Statement (.addHLPair ss) := fun _ => rfl
theorem adcHLPair (ss : RegDD) : Statement (.adcHLPair ss) := fun _ => rfl
theorem sbcHLPair (ss : RegDD) : Statement (.sbcHLPair ss) := fun _ => rfl
theorem addIXPair (pp : RegPP) : Statement (.addIXPair pp) := fun _ => rfl
theorem addIYPair (rr : RegRR) : Statement (.addIYPair rr) := fun _ => rfl
theorem incPair (ss : RegDD) : Statement (.incPair ss) := fun _ => rfl
theorem incIX16 : Statement .incIX16 := fun _ => rfl
theorem incIY16 : Statement .incIY16 := fun _ => rfl
theorem decPair (ss : RegDD) : Statement (.decPair ss) := fun _ => rfl
theorem decIX16 : Statement .decIX16 := fun _ => rfl
theorem decIY16 : Statement .decIY16 := fun _ => rfl
theorem ccf : Statement .ccf := fun _ => rfl
theorem scf : Statement .scf := fun _ => rfl
theorem nop : Statement .nop := fun _ => rfl
theorem halt : Statement .halt := fun _ => rfl
theorem di : Statement .di := fun _ => rfl
theorem ei : Statement .ei := fun _ => rfl
theorem jp (nn : Word) : Statement (.jp nn) := fun _ => rfl
theorem jpCond (cc : Cond) (nn : Word) : Statement (.jpCond cc nn) := fun _ => rfl
theorem jpHL : Statement .jpHL := fun _ => rfl
theorem jpIX : Statement .jpIX := fun _ => rfl
theorem jpIY : Statement .jpIY := fun _ => rfl
theorem call (nn : Word) : Statement (.call nn) := fun _ => rfl
theorem callCond (cc : Cond) (nn : Word) : Statement (.callCond cc nn) := fun taken => by
  cases taken <;> rfl
theorem ret : Statement .ret := fun _ => rfl
theorem retCond (cc : Cond) : Statement (.retCond cc) := fun taken => by
  cases taken <;> rfl
theorem rst (p : Word) : Statement (.rst p) := fun _ => rfl
theorem rlca : Statement .rlca := fun _ => rfl
theorem rla : Statement .rla := fun _ => rfl
theorem rrca : Statement .rrca := fun _ => rfl
theorem rra : Statement .rra := fun _ => rfl
theorem rlcReg (r : Reg8) : Statement (.rlcReg r) := fun _ => rfl
theorem rlcHL : Statement .rlcHL := fun _ => rfl
theorem rlcIX (d : Byte) : Statement (.rlcIX d) := fun _ => rfl
theorem rlcIY (d : Byte) : Statement (.rlcIY d) := fun _ => rfl
theorem rlReg (r : Reg8) : Statement (.rlReg r) := fun _ => rfl
theorem rlHL : Statement .rlHL := fun _ => rfl
theorem rlIX (d : Byte) : Statement (.rlIX d) := fun _ => rfl
theorem rlIY (d : Byte) : Statement (.rlIY d) := fun _ => rfl
theorem rrcReg (r : Reg8) : Statement (.rrcReg r) := fun _ => rfl
theorem rrcHL : Statement .rrcHL := fun _ => rfl
theorem rrcIX (d : Byte) : Statement (.rrcIX d) := fun _ => rfl
theorem rrcIY (d : Byte) : Statement (.rrcIY d) := fun _ => rfl
theorem rrReg (r : Reg8) : Statement (.rrReg r) := fun _ => rfl
theorem rrHL : Statement .rrHL := fun _ => rfl
theorem rrIX (d : Byte) : Statement (.rrIX d) := fun _ => rfl
theorem rrIY (d : Byte) : Statement (.rrIY d) := fun _ => rfl
theorem rld : Statement .rld := fun _ => rfl
theorem rrd : Statement .rrd := fun _ => rfl
theorem slaReg (r : Reg8) : Statement (.slaReg r) := fun _ => rfl
theorem slaHL : Statement .slaHL := fun _ => rfl
theorem slaIX (d : Byte) : Statement (.slaIX d) := fun _ => rfl
theorem slaIY (d : Byte) : Statement (.slaIY d) := fun _ => rfl
theorem sraReg (r : Reg8) : Statement (.sraReg r) := fun _ => rfl
theorem sraHL : Statement .sraHL := fun _ => rfl
theorem sraIX (d : Byte) : Statement (.sraIX d) := fun _ => rfl
theorem sraIY (d : Byte) : Statement (.sraIY d) := fun _ => rfl
theorem srlReg (r : Reg8) : Statement (.srlReg r) := fun _ => rfl
theorem srlHL : Statement .srlHL := fun _ => rfl
theorem srlIX (d : Byte) : Statement (.srlIX d) := fun _ => rfl
theorem srlIY (d : Byte) : Statement (.srlIY d) := fun _ => rfl
theorem bitReg (b : BitIndex) (r : Reg8) : Statement (.bitReg b r) := fun _ => rfl
theorem bitHL (b : BitIndex) : Statement (.bitHL b) := fun _ => rfl
theorem bitIX (b : BitIndex) (d : Byte) : Statement (.bitIX b d) := fun _ => rfl
theorem bitIY (b : BitIndex) (d : Byte) : Statement (.bitIY b d) := fun _ => rfl
theorem setReg (b : BitIndex) (r : Reg8) : Statement (.setReg b r) := fun _ => rfl
theorem setHL (b : BitIndex) : Statement (.setHL b) := fun _ => rfl
theorem setIX (b : BitIndex) (d : Byte) : Statement (.setIX b d) := fun _ => rfl
theorem setIY (b : BitIndex) (d : Byte) : Statement (.setIY b d) := fun _ => rfl
theorem resReg (b : BitIndex) (r : Reg8) : Statement (.resReg b r) := fun _ => rfl
theorem resHL (b : BitIndex) : Statement (.resHL b) := fun _ => rfl
theorem resIX (b : BitIndex) (d : Byte) : Statement (.resIX b d) := fun _ => rfl
theorem resIY (b : BitIndex) (d : Byte) : Statement (.resIY b d) := fun _ => rfl
theorem inAImm (n : Byte) : Statement (.inAImm n) := fun _ => rfl
theorem inRegC (r : Reg8) : Statement (.inRegC r) := fun _ => rfl
theorem outImmA (n : Byte) : Statement (.outImmA n) := fun _ => rfl
theorem outCReg (r : Reg8) : Statement (.outCReg r) := fun _ => rfl

end Sys2Proof.Laws.BytesColumn
end

