-- ==== Sys2Proof/Tests/Slice0.lean ====
section
/-! SUPPORT. Tests of the model, each a named theorem: well-formedness, decoding of bytes the spec prints, single steps
whose results the spec prints, and for every obligation that has hypotheses a witness that something meets them. -/

open Sys2Proof Sys2Proof.Machine

namespace Sys2Proof.Tests

/-! ## Helpers -/

/-- The bytes decode to the instruction and nothing is left over. -/
def decodesTo (bytes : List Byte) (i : Instr) : Bool :=
  match decode bytes with
  | .ok (j, rest) => decide (j = i) && rest.isEmpty
  | .error _ => false

/-- Every pair of the list: the bytes decode to the instruction. -/
def decodesAll (rows : List (List Byte × Instr)) : Bool := rows.all fun row => decodesTo row.1 row.2

/-- The bytes match no row. -/
def isUndefined (bytes : List Byte) : Bool :=
  match decode bytes with
  | .ok _ => false
  | .error .undefinedOpcode => true
  | .error .incomplete => false

/-- The bytes are the beginning of an instruction. -/
def isIncomplete (bytes : List Byte) : Bool :=
  match decode bytes with
  | .ok _ => false
  | .error .undefinedOpcode => false
  | .error .incomplete => true

/-- The state after reset with the bytes at 0100h, where pc stands, and SP = 9000h. -/
def ready (bytes : List Byte) : State := { State.reset with pc := 0x0100, sp := 0x9000 }.placeBytes 0x0100 bytes

/-- The answer is a next state that passes the check. -/
def passes (check : State → Bool) : Result → Bool
  | .next t => check t
  | .fault _ => false
  | .refused _ => false

/-- A platform with ROM at 0000h, an unmapped hole at A000h to A0FFh, a device at B000h and a dead port 10h, and an
interrupt requested at the first three boundaries. -/
def patchwork : Platform :=
  { Platform.default with
    regions := [⟨0x0000, 0x00FF, .rom⟩, ⟨0xA000, 0xA0FF, .unmapped⟩, ⟨0xB000, 0xB000, .device⟩]
    intReq := [true, true, true], deadPorts := [0x10] }

/-- The state of ready on that platform. -/
def onPatchwork (bytes : List Byte) : State := { ready bytes with platform := patchwork }

/-! ## Well-formedness -/

theorem test_rst_of_no_code_is_ill_formed : ¬ (Instr.rst 0x0001).WellFormed := by decide
theorem test_rst_beyond_the_table_is_ill_formed : ¬ (Instr.rst 0x0040).WellFormed := by decide
theorem test_rst_of_the_high_bytes_is_ill_formed : ¬ (Instr.rst 0x0108).WellFormed := by decide
theorem test_rst_of_every_code_is_well_formed :
    ([0x0000, 0x0008, 0x0010, 0x0018, 0x0020, 0x0028, 0x0030, 0x0038] : List Word).all
      (fun p => (Instr.rst p).isWellFormed) = true := by decide

/-! ## Decoding -/

/-- The register codes of 30_encoding.md R82, as destination and as source. -/
theorem test_decode_register_codes : decodesAll
    [([0x47], .ldRegReg .b .a), ([0x48], .ldRegReg .c .b), ([0x51], .ldRegReg .d .c), ([0x5A], .ldRegReg .e .d),
     ([0x63], .ldRegReg .h .e), ([0x6C], .ldRegReg .l .h), ([0x7D], .ldRegReg .a .l), ([0x7E], .ldRegHL .a),
     ([0x70], .ldHLReg .b)] = true := by decide

/-- The pair codes of 30_encoding.md R83: the third code is HL, IX or IY and the fourth SP or AF by the row. -/
theorem test_decode_pair_codes : decodesAll
    [([0x03], .incPair .bc), ([0x13], .incPair .de), ([0x23], .incPair .hl), ([0x33], .incPair .sp),
     ([0xC5], .pushPair .bc), ([0xD5], .pushPair .de), ([0xE5], .pushPair .hl), ([0xF5], .pushPair .af),
     ([0xDD, 0x09], .addIXPair .bc), ([0xDD, 0x19], .addIXPair .de), ([0xDD, 0x29], .addIXPair .ix),
     ([0xDD, 0x39], .addIXPair .sp), ([0xFD, 0x09], .addIYPair .bc), ([0xFD, 0x19], .addIYPair .de),
     ([0xFD, 0x29], .addIYPair .iy), ([0xFD, 0x39], .addIYPair .sp)] = true := by decide

/-- The condition codes of 30_encoding.md R84 and the restart codes of R86. -/
theorem test_decode_conditions_and_restarts : decodesAll
    [([0xC0], .retCond .nz), ([0xC8], .retCond .z), ([0xD0], .retCond .nc), ([0xD8], .retCond .c),
     ([0xE0], .retCond .po), ([0xE8], .retCond .pe), ([0xF0], .retCond .p), ([0xF8], .retCond .m),
     ([0xC7], .rst 0x0000), ([0xCF], .rst 0x0008), ([0xD7], .rst 0x0010), ([0xDF], .rst 0x0018),
     ([0xE7], .rst 0x0020), ([0xEF], .rst 0x0028), ([0xF7], .rst 0x0030), ([0xFF], .rst 0x0038)] = true := by decide

/-- The bit numbers of 30_encoding.md R85. -/
theorem test_decode_bit_numbers : decodesAll
    [([0xCB, 0x40], .bitReg 0 .b), ([0xCB, 0x49], .bitReg 1 .c), ([0xCB, 0x92], .resReg 2 .d),
     ([0xCB, 0x9B], .resReg 3 .e), ([0xCB, 0xE4], .setReg 4 .h), ([0xCB, 0xED], .setReg 5 .l),
     ([0xDD, 0xCB, 0x01, 0xB6], .resIX 6 0x01), ([0xFD, 0xCB, 0x80, 0x7E], .bitIY 7 0x80)] = true := by decide

/-- Sequences that match no row (30_encoding.md R92 to R96), among them the neighbours of rows. -/
theorem test_undefined_encodings : ∀ bytes ∈ ([[0x08], [0x10], [0x18], [0x20], [0x28], [0x30], [0x38], [0xD9],
      [0xCB, 0x30], [0xCB, 0x37], [0xED, 0x00], [0xED, 0x4D], [0xED, 0x70], [0xED, 0x71], [0xED, 0xB0], [0xDD, 0x76],
      [0xDD, 0xEB], [0xDD, 0xDD], [0xDD, 0xE3], [0xFD, 0x44], [0xFD, 0xCB, 0x00, 0x00], [0xDD, 0xCB, 0x00, 0x36],
      [0xDD, 0xCB, 0x00, 0x47]] : List (List Byte)), isUndefined bytes = true := by decide

/-- Beginnings of instructions ask for more bytes (30_encoding.md R91). -/
theorem test_incomplete_encodings : ∀ bytes ∈ ([[], [0xCB], [0xDD], [0xED], [0xFD], [0x06], [0x21], [0x21, 0x00],
      [0xDD, 0xCB], [0xDD, 0xCB, 0x00], [0xDD, 0x36, 0x00], [0xED, 0x4B, 0x00]] : List (List Byte)),
    isIncomplete bytes = true := by decide

/-- The bytes of the examples of 40_load8.md, as the spec prints them. -/
theorem test_decode_load8 : decodesAll
    [([0x78], .ldRegReg .a .b),
     ([0x0E, 0xFF], .ldRegImm .c 0xFF),
     ([0x6E], .ldRegHL .l),
     ([0xDD, 0x7E, 0xFE], .ldRegIX .a 0xFE),
     ([0xFD, 0x7E, 0xFE], .ldRegIY .a 0xFE),
     ([0x77], .ldHLReg .a),
     ([0xDD, 0x71, 0x7F], .ldIXReg 0x7F .c),
     ([0xFD, 0x71, 0x7F], .ldIYReg 0x7F .c),
     ([0x36, 0x99], .ldHLImm 0x99),
     ([0xDD, 0x36, 0x01, 0xAB], .ldIXImm 0x01 0xAB),
     ([0xFD, 0x36, 0x01, 0xAB], .ldIYImm 0x01 0xAB),
     ([0x0A], .ldABC),
     ([0x1A], .ldADE),
     ([0x3A, 0x00, 0xC0], .ldAMem 0xC000),
     ([0x02], .ldBCA),
     ([0x12], .ldDEA),
     ([0x32, 0x34, 0x12], .ldMemA 0x1234)] = true := by decide

/-- The bytes of the examples of 41_load16.md, as the spec prints them. -/
theorem test_decode_load16_1 : decodesAll
    [([0x31, 0x00, 0x80], .ldPairImm .sp 0x8000),
     ([0xDD, 0x21, 0xCD, 0xAB], .ldIXImm16 0xABCD),
     ([0xFD, 0x21, 0xCD, 0xAB], .ldIYImm16 0xABCD),
     ([0x2A, 0x00, 0x30], .ldHLMem 0x3000),
     ([0xED, 0x7B, 0x00, 0x30], .ldPairMem .sp 0x3000),
     ([0xDD, 0x2A, 0xFF, 0xFF], .ldIXMem 0xFFFF),
     ([0xFD, 0x2A, 0xFF, 0xFF], .ldIYMem 0xFFFF),
     ([0x22, 0x00, 0x90], .ldMemHL 0x9000),
     ([0xED, 0x73, 0x00, 0x90], .ldMemPair 0x9000 .sp),
     ([0xDD, 0x22, 0xFE, 0x7F], .ldMemIX 0x7FFE),
     ([0xFD, 0x22, 0xFE, 0x7F], .ldMemIY 0x7FFE),
     ([0xF9], .ldSPHL),
     ([0xDD, 0xF9], .ldSPIX),
     ([0xFD, 0xF9], .ldSPIY),
     ([0xEB], .exDEHL),
     ([0xE3], .exSPHL),
     ([0xC5], .pushPair .bc),
     ([0xDD, 0xE5], .pushIX),
     ([0xFD, 0xE5], .pushIY),
     ([0xF1], .popPair .af)] = true := by decide

/-- The bytes of the examples of 41_load16.md, as the spec prints them. -/
theorem test_decode_load16_2 : decodesAll
    [([0xDD, 0xE1], .popIX),
     ([0xFD, 0xE1], .popIY)] = true := by decide

/-- The bytes of the examples of 42_alu8.md, as the spec prints them. -/
theorem test_decode_alu8_1 : decodesAll
    [([0x80], .addAReg .b),
     ([0xC6, 0x01], .addAImm 0x01),
     ([0x86], .addAHL),
     ([0xDD, 0x86, 0x05], .addAIX 0x05),
     ([0xFD, 0x86, 0x05], .addAIY 0x05),
     ([0x88], .adcAReg .b),
     ([0xCE, 0x00], .adcAImm 0x00),
     ([0x8E], .adcAHL),
     ([0xDD, 0x8E, 0x05], .adcAIX 0x05),
     ([0xFD, 0x8E, 0x05], .adcAIY 0x05),
     ([0x90], .subAReg .b),
     ([0xD6, 0x01], .subAImm 0x01),
     ([0x96], .subAHL),
     ([0xDD, 0x96, 0x05], .subAIX 0x05),
     ([0xFD, 0x96, 0x05], .subAIY 0x05),
     ([0x98], .sbcAReg .b),
     ([0xDE, 0xFF], .sbcAImm 0xFF),
     ([0x9E], .sbcAHL),
     ([0xDD, 0x9E, 0x05], .sbcAIX 0x05),
     ([0xFD, 0x9E, 0x05], .sbcAIY 0x05)] = true := by decide

/-- The bytes of the examples of 42_alu8.md, as the spec prints them. -/
theorem test_decode_alu8_2 : decodesAll
    [([0xB8], .cpAReg .b),
     ([0xFE, 0x41], .cpAImm 0x41),
     ([0xBE], .cpAHL),
     ([0xDD, 0xBE, 0x05], .cpAIX 0x05),
     ([0xFD, 0xBE, 0x05], .cpAIY 0x05),
     ([0xA0], .andAReg .b),
     ([0xE6, 0x3C], .andAImm 0x3C),
     ([0xA6], .andAHL),
     ([0xDD, 0xA6, 0x05], .andAIX 0x05),
     ([0xFD, 0xA6, 0x05], .andAIY 0x05),
     ([0xB0], .orAReg .b),
     ([0xF6, 0x00], .orAImm 0x00),
     ([0xB6], .orAHL),
     ([0xDD, 0xB6, 0x05], .orAIX 0x05),
     ([0xFD, 0xB6, 0x05], .orAIY 0x05),
     ([0xA8], .xorAReg .b),
     ([0xEE, 0x0F], .xorAImm 0x0F),
     ([0xAE], .xorAHL),
     ([0xDD, 0xAE, 0x05], .xorAIX 0x05),
     ([0xFD, 0xAE, 0x05], .xorAIY 0x05)] = true := by decide

/-- The bytes of the examples of 42_alu8.md, as the spec prints them. -/
theorem test_decode_alu8_3 : decodesAll
    [([0x04], .incReg .b),
     ([0x34], .incHL),
     ([0xDD, 0x34, 0xF0], .incIX 0xF0),
     ([0xFD, 0x34, 0xF0], .incIY 0xF0),
     ([0x05], .decReg .b),
     ([0x35], .decHL),
     ([0xDD, 0x35, 0xF0], .decIX 0xF0),
     ([0xFD, 0x35, 0xF0], .decIY 0xF0),
     ([0x27], .daa),
     ([0x2F], .cpl),
     ([0xED, 0x44], .neg)] = true := by decide

/-- The bytes of the examples of 43_arith16.md, as the spec prints them. -/
theorem test_decode_arith16 : decodesAll
    [([0x09], .addHLPair .bc),
     ([0xED, 0x5A], .adcHLPair .de),
     ([0xED, 0x42], .sbcHLPair .bc),
     ([0xDD, 0x39], .addIXPair .sp),
     ([0xFD, 0x39], .addIYPair .sp),
     ([0x03], .incPair .bc),
     ([0xDD, 0x23], .incIX16),
     ([0xFD, 0x23], .incIY16),
     ([0x2B], .decPair .hl),
     ([0xDD, 0x2B], .decIX16),
     ([0xFD, 0x2B], .decIY16)] = true := by decide

/-- The bytes of the examples of 44_cpu_control.md, as the spec prints them. -/
theorem test_decode_cpu_control : decodesAll
    [([0x3F], .ccf),
     ([0x37], .scf),
     ([0x00], .nop),
     ([0x76], .halt),
     ([0xF3], .di),
     ([0xFB], .ei)] = true := by decide

/-- The bytes of the examples of 45_jump.md, as the spec prints them. -/
theorem test_decode_jump : decodesAll
    [([0xC3, 0x00, 0x80], .jp 0x8000),
     ([0xCA, 0x34, 0x12], .jpCond .z 0x1234),
     ([0xE9], .jpHL),
     ([0xDD, 0xE9], .jpIX),
     ([0xFD, 0xE9], .jpIY)] = true := by decide

/-- The bytes of the examples of 46_call_return.md, as the spec prints them. -/
theorem test_decode_call_return : decodesAll
    [([0xCD, 0x00, 0x20], .call 0x2000),
     ([0xDC, 0x00, 0x20], .callCond .c 0x2000),
     ([0xC9], .ret),
     ([0xF8], .retCond .m),
     ([0xFF], .rst 0x0038)] = true := by decide

/-- The bytes of the examples of 47_shift_rotate.md, as the spec prints them. -/
theorem test_decode_shift_rotate_1 : decodesAll
    [([0x07], .rlca),
     ([0x17], .rla),
     ([0x0F], .rrca),
     ([0x1F], .rra),
     ([0xCB, 0x07], .rlcReg .a),
     ([0xCB, 0x06], .rlcHL),
     ([0xDD, 0xCB, 0xFF, 0x06], .rlcIX 0xFF),
     ([0xFD, 0xCB, 0xFF, 0x06], .rlcIY 0xFF),
     ([0xCB, 0x17], .rlReg .a),
     ([0xCB, 0x16], .rlHL),
     ([0xDD, 0xCB, 0xFF, 0x16], .rlIX 0xFF),
     ([0xFD, 0xCB, 0xFF, 0x16], .rlIY 0xFF),
     ([0xCB, 0x0F], .rrcReg .a),
     ([0xCB, 0x0E], .rrcHL),
     ([0xDD, 0xCB, 0xFF, 0x0E], .rrcIX 0xFF),
     ([0xFD, 0xCB, 0xFF, 0x0E], .rrcIY 0xFF),
     ([0xCB, 0x1F], .rrReg .a),
     ([0xCB, 0x1E], .rrHL),
     ([0xDD, 0xCB, 0xFF, 0x1E], .rrIX 0xFF),
     ([0xFD, 0xCB, 0xFF, 0x1E], .rrIY 0xFF)] = true := by decide

/-- The bytes of the examples of 47_shift_rotate.md, as the spec prints them. -/
theorem test_decode_shift_rotate_2 : decodesAll
    [([0xED, 0x6F], .rld),
     ([0xED, 0x67], .rrd),
     ([0xCB, 0x27], .slaReg .a),
     ([0xCB, 0x26], .slaHL),
     ([0xDD, 0xCB, 0xFF, 0x26], .slaIX 0xFF),
     ([0xFD, 0xCB, 0xFF, 0x26], .slaIY 0xFF),
     ([0xCB, 0x2F], .sraReg .a),
     ([0xCB, 0x2E], .sraHL),
     ([0xDD, 0xCB, 0xFF, 0x2E], .sraIX 0xFF),
     ([0xFD, 0xCB, 0xFF, 0x2E], .sraIY 0xFF),
     ([0xCB, 0x3F], .srlReg .a),
     ([0xCB, 0x3E], .srlHL),
     ([0xDD, 0xCB, 0xFF, 0x3E], .srlIX 0xFF),
     ([0xFD, 0xCB, 0xFF, 0x3E], .srlIY 0xFF)] = true := by decide

/-- The bytes of the examples of 48_bit.md, as the spec prints them. -/
theorem test_decode_bit_ops : decodesAll
    [([0xCB, 0x7F], .bitReg 7 .a),
     ([0xCB, 0x46], .bitHL 0),
     ([0xDD, 0xCB, 0x80, 0x66], .bitIX 4 0x80),
     ([0xFD, 0xCB, 0x80, 0x66], .bitIY 4 0x80),
     ([0xCB, 0xFF], .setReg 7 .a),
     ([0xCB, 0xC6], .setHL 0),
     ([0xDD, 0xCB, 0x80, 0xE6], .setIX 4 0x80),
     ([0xFD, 0xCB, 0x80, 0xE6], .setIY 4 0x80),
     ([0xCB, 0xBF], .resReg 7 .a),
     ([0xCB, 0x86], .resHL 0),
     ([0xDD, 0xCB, 0x80, 0xA6], .resIX 4 0x80),
     ([0xFD, 0xCB, 0x80, 0xA6], .resIY 4 0x80)] = true := by decide

/-- The bytes of the examples of 49_io.md, as the spec prints them. -/
theorem test_decode_io : decodesAll
    [([0xDB, 0x01], .inAImm 0x01),
     ([0xED, 0x40], .inRegC .b),
     ([0xD3, 0x00], .outImmA 0x00),
     ([0xED, 0x41], .outCReg .b)] = true := by decide

/-! ## The host's two functions -/

/-- The table numbers a row's bytes as one number (log 16): `LD (IX + d), n` with d and n zero, and `NOP`. -/
theorem test_decodeTableWord :
    decodeTableWord 32 0xDD360000 = some (.ldIXImm 0x00 0x00) ∧ decodeTableWord 8 0x00 = some .nop ∧
      decodeTableWord 16 0xED42 = some (.sbcHLPair .bc) ∧ decodeTableWord 8 0x08 = none := by decide

/-- The step of a state with a fetch word runs that word's instruction, also where it would not have fetched: halted,
or with an interrupt due. -/
theorem test_withFetchWord :
    passes (fun t => t.pc == 2 && t.regs.b == 0x00) (step (State.reset.withFetchWord 16 0x0600)) = true ∧
      passes (fun t => t.halted) (step (State.reset.withFetchWord 8 0x76)) = true ∧
      passes (fun t => t.sp == 0x9001)
        (step (({ onPatchwork [] with halted := true, iff := true } : State).withFetchWord 8 0x33)) = true := by decide

/-! ## Single steps; each result is one the spec prints in the rule or the vector named -/

/-- 40_load8.md R124: `LD A, (IX - 2)`. -/
theorem test_ld_negative_displacement :
    passes (fun t => t.regs.a == 0x5A && t.pc == 0x0103)
      (step (({ ready [0xDD, 0x7E, 0xFE] with ix := 0x1002 } : State).poke 0x1000 0x5A)) = true := by decide

/-- 40_load8.md R137: `LD (1234h), A`. -/
theorem test_ld_store_direct :
    passes (fun t => t.peek 0x1234 == 0x7E && t.pc == 0x0103)
      (step ((ready [0x32, 0x34, 0x12]).setA 0x7E)) = true := by decide

/-- 41_load16.md R148: `LD (9000h), HL` stores the low byte first. -/
theorem test_ld_word_store :
    passes (fun t => t.peek 0x9000 == 0xEF && t.peek 0x9001 == 0xBE)
      (step ((ready [0x22, 0x00, 0x90]).setReg16 .hl 0xBEEF)) = true := by decide

/-- 41_load16.md R156: `EX (SP), HL`. -/
theorem test_ex_stack :
    passes (fun t => t.reg16 .hl == 0x5678 && t.peek 0x8FFE == 0x34 && t.peek 0x8FFF == 0x12 && t.sp == 0x8FFE)
      (step (((({ ready [0xE3] with sp := 0x8FFE } : State).setReg16 .hl 0x1234).poke 0x8FFE 0x78).poke 0x8FFF 0x56))
      = true := by decide

/-- 41_load16.md R160: `POP AF` with the byte D7h. -/
theorem test_pop_af :
    passes (fun t => t.regs.a == 0x12 && t.flags == ⟨true, true, true, true, true, true⟩ && t.sp == 0x9000)
      (step ((({ ready [0xF1] with sp := 0x8FFE } : State).poke 0x8FFE 0xD7).poke 0x8FFF 0x12)) = true := by decide

/-- 42_alu8.md R181: `ADD A, 01h` with A = 7Fh overflows. -/
theorem test_add_overflow :
    passes (fun t => t.regs.a == 0x80 && t.flags == ⟨true, false, true, true, false, false⟩)
      (step ((ready [0xC6, 0x01]).setA 0x7F)) = true := by decide

/-- 42_alu8.md R185: `ADC A, B` with A = FFh, B = 00h, CF = 1; the carry out is that of the same rule. -/
theorem test_adc_carry :
    passes (fun t => t.regs.a == 0x00 && t.flags == ⟨false, true, true, false, false, true⟩)
      (step (((ready [0x88]).setA 0xFF).setFlags { Flags.reset with cf := true })) = true := by decide

/-- 42_alu8.md R201: `CP 41h` with A = 40h borrows. -/
theorem test_cp_borrow :
    passes (fun t => t.regs.a == 0x40 && t.flags == ⟨true, false, true, false, true, true⟩)
      (step ((ready [0xFE, 0x41]).setA 0x40)) = true := by decide

/-- 42_alu8.md R205: `AND B` with A = F0h, B = 3Ch. -/
theorem test_and :
    passes (fun t => t.regs.a == 0x30 && t.flags == ⟨false, false, true, true, false, false⟩)
      (step (((ready [0xA0]).setA 0xF0).setReg8 .b 0x3C)) = true := by decide

/-- 42_alu8.md R225: `DEC (HL)` of 80h. -/
theorem test_dec_memory :
    passes (fun t => t.peek 0x2000 == 0x7F && t.flags == ⟨false, false, true, true, true, false⟩)
      (step (((ready [0x35]).setReg16 .hl 0x2000).poke 0x2000 0x80)) = true := by decide

/-- 42_alu8.md R229: `CPL` of FFh keeps Z. -/
theorem test_cpl :
    passes (fun t => t.regs.a == 0x00 && !t.flags.zf && t.flags.hf && t.flags.nf)
      (step ((ready [0x2F]).setA 0xFF)) = true := by decide

/-- 43_arith16.md R246: `SBC HL, BC` of equal values. -/
theorem test_sbc_word :
    passes (fun t => t.reg16 .hl == 0x0000 && t.flags == ⟨false, true, false, false, true, false⟩)
      (step (((ready [0xED, 0x42]).setReg16 .hl 0x1000).setReg16 .bc 0x1000)) = true := by decide

/-- 44_cpu_control.md R263: `HALT`. -/
theorem test_halt : passes (fun t => t.halted && t.pc == 0x0101) (step (ready [0x76])) = true := by decide

/-- 46_call_return.md R281: `CALL 2000h` at 1000h. -/
theorem test_call :
    passes (fun t => t.pc == 0x2000 && t.sp == 0x8FFE && t.peek 0x8FFE == 0x03 && t.peek 0x8FFF == 0x10)
      (step (({ State.reset with pc := 0x1000, sp := 0x9000 } : State).placeBytes 0x1000 [0xCD, 0x00, 0x20]))
      = true := by decide

/-- 47_shift_rotate.md R297: `RRA` with A = 01h, CF = 1: the old C enters at the top, bit 0 becomes C. -/
theorem test_rra :
    passes (fun t => t.regs.a == 0x80 && t.flags.cf)
      (step (((ready [0x1F]).setA 0x01).setFlags { Flags.reset with cf := true })) = true := by decide

/-- 47_shift_rotate.md R321: `SRA (HL)` of 81h keeps the sign. -/
theorem test_sra :
    passes (fun t => t.peek 0x2000 == 0xC0 && t.flags == ⟨true, false, false, true, false, true⟩)
      (step (((ready [0xCB, 0x2E]).setReg16 .hl 0x2000).poke 0x2000 0x81)) = true := by decide

/-- 48_bit.md R342: `BIT 0, (HL)` of FEh; S and P/V are free and not looked at. -/
theorem test_bit :
    passes (fun t => t.flags.zf && t.flags.hf && !t.flags.nf && t.peek 0x2000 == 0xFE)
      (step (((ready [0xCB, 0x46]).setReg16 .hl 0x2000).poke 0x2000 0xFE)) = true := by decide

/-- 49_io.md R362: `IN B, (C)` with C = 02h where port 02h reads 00h. -/
theorem test_in :
    passes (fun t => t.regs.b == 0x00 && t.flags.zf && t.flags.pf && t.flags.cf && t.ioReads == 1)
      (step ((({ ready [0xED, 0x40] with
        platform := { Platform.default with ioIn := [⟨0x02, 0, 0x00⟩] } } : State).setReg8 .c 0x02).setFlags
        { Flags.reset with cf := true })) = true := by decide

/-- An interrupt accepted while halted resumes at INT_VECTOR with the address after the HALT on the stack
(60_exceptions.md R406, R418). -/
theorem test_interrupt_leaves_halt :
    passes (fun t => t.pc == 0x0038 && !t.halted && !t.iff && t.sp == 0x8FFE && t.peek 0x8FFF == 0x01
        && t.peek 0x8FFE == 0x00)
      (step { onPatchwork [] with halted := true, iff := true }) = true := by decide

/-- ROM ignores a store, and a store to the unmapped hole is the platform fault (20_memory.md R51). -/
theorem test_rom_and_hole :
    passes (fun t => t.peek 0x0010 == 0x00 && t.pc == 0x0103)
        (exec (.ldMemA 0x0010) ((onPatchwork []).setA 0x55)) = true ∧
      exec (.ldMemA 0xA000) (onPatchwork []) = .fault (.platformFault (.memWrite 0xA000) []) :=
  ⟨by decide, rfl⟩

/-! ## Witnesses: for every obligation with hypotheses, something concrete that meets them -/

theorem witness_DecodeAfterEncode : (Instr.rst 0x0038).WellFormed ∧ (Instr.ldIXImm 0x80 0xFF).WellFormed := by decide

theorem witness_EncodeAfterDecode : decode [0xFF, 0x12] = .ok (.rst 0x0038, [0x12]) := rfl

/-- Each clause at the ends of its range. -/
theorem witness_UndefinedEncodingsRefused :
    (0x00 : Byte) ∉ ([0xCB, 0xDD, 0xED, 0xFD] : List Byte) ∧ (0xFF : Byte) ∉ ([0xCB, 0xDD, 0xED, 0xFD] : List Byte) ∧
      (0xDD : Byte) ∈ ([0xDD, 0xFD] : List Byte) ∧ (0xFD : Byte) ∈ ([0xDD, 0xFD] : List Byte) ∧
      (0xCA : Byte) ≠ 0xCB := by decide

theorem witness_StepRunsDecodedInstr :
    (ready [0xFF]).executes = true ∧ decode [0xFF] = .ok (.rst 0x0038, []) ∧
      (ready [0xFF]).holds (ready [0xFF]).pc [0xFF] = true := ⟨by decide, rfl, by decide⟩

/-- An instruction that lies across the end of the address space. -/
theorem witness_StepRunsDecodedInstr_wraps :
    let s := ({ State.reset with pc := 0xFFFF } : State).placeBytes 0xFFFF [0x3E, 0x12]
    s.executes = true ∧ decode [0x3E, 0x12] = .ok (.ldRegImm .a 0x12, []) ∧ s.holds s.pc [0x3E, 0x12] = true :=
  ⟨by decide, rfl, by decide⟩

theorem witness_StepStopsAtUndefinedOpcode :
    (ready [0xDD, 0xDD]).executes = true ∧ (ready [0xDD, 0xDD]).holds 0x0100 [0xDD, 0xDD] = true ∧
      decode [0xDD, 0xDD] = .error .undefinedOpcode ∧
      decode ([0xDD, 0xDD] : List Byte).dropLast = .error .incomplete := ⟨by decide, by decide, rfl, rfl⟩

/-- The hole begins after the first byte of an instruction of two. -/
theorem witness_StepStopsAtUnreadableFetch :
    let s := ({ onPatchwork [] with pc := 0x9FFF } : State).placeBytes 0x9FFF [0x3E]
    s.executes = true ∧ s.holds s.pc [0x3E] = true ∧ decode [0x3E] = .error .incomplete ∧
      s.canAccess (s.pc + BitVec.ofNat 16 ([0x3E] : List Byte).length) = false := ⟨by decide, by decide, rfl, by decide⟩

/-- The first byte itself cannot be read. -/
theorem witness_StepStopsAtUnreadableFetch_first :
    let s : State := { onPatchwork [] with pc := 0xA000 }
    s.executes = true ∧ s.holds s.pc [] = true ∧ decode [] = .error .incomplete ∧
      s.canAccess (s.pc + BitVec.ofNat 16 0) = false := ⟨by decide, by decide, rfl, by decide⟩

/-- On this platform reset is asserted at boundary 0 alone. -/
def resetting : State := { ready [] with platform := { Platform.default with resetReq := [true] }, halted := true }

theorem witness_ResetStep : resetting.resetRequested = true := by decide

/-- With IFF = 0 while an interrupt is requested; with IFF = 1 and none requested, as after EI and HALT. -/
theorem witness_HaltedWithInterruptsOffStaysHalted :
    let off : State := { onPatchwork [] with halted := true }
    let on : State := { ready [] with halted := true, iff := true }
    (off.halted = true ∧ off.resetRequested = false ∧ off.interruptAccepted = false ∧ off.interruptRequested = true) ∧
      (on.halted = true ∧ on.resetRequested = false ∧ on.interruptAccepted = false) ∧
      off.iff = false ∧ (∀ k, k < 3 → off.platform.resetReq.getD (off.boundary + k) false = false) ∧
      (∀ k, k < 3 → on.platform.resetReq.getD (on.boundary + k) false = false) ∧
      ∀ k, k < 3 → ({ on with boundary := on.boundary + k } : State).interruptAccepted = false := by
  decide

/-- EI then HALT leaves such a state. -/
theorem test_ei_halt_waits :
    passes (fun t => t.halted && t.iff && !t.interruptAccepted && !t.resetRequested)
      (Sys2Proof.core.run 3 (ready [0xFB, 0x76])) = true := by decide

/-- Running with SP = 0001h, so that the two bytes lie at 0000h and FFFFh, and halted. -/
theorem witness_StepTakesAcceptedInterrupt : ∀ halted ∈ [true, false],
    let s : State := { onPatchwork [] with iff := true, halted := halted, sp := 0x0001 }
    s.resetRequested = false ∧ s.interruptRequested = true ∧ s.iff = true ∧ s.inhibit = false ∧
      s.canAccess (s.sp - 1) = true ∧ s.canAccess (s.sp - 2) = true := by decide

/-- The first stack byte lies in the hole. -/
theorem witness_StepTakesAcceptedInterrupt_first_byte :
    let s : State := { onPatchwork [] with iff := true, sp := 0xA001 }
    s.resetRequested = false ∧ s.interruptRequested = true ∧ s.iff = true ∧ s.inhibit = false ∧
      s.canAccess (s.sp - 1) = false := by decide

/-- The second stack byte alone lies in the hole. -/
theorem witness_StepTakesAcceptedInterrupt_second_byte :
    let s : State := { onPatchwork [] with iff := true, sp := 0xA101 }
    s.resetRequested = false ∧ s.interruptRequested = true ∧ s.iff = true ∧ s.inhibit = false ∧
      s.canAccess (s.sp - 1) = true ∧ s.canAccess (s.sp - 2) = false := by decide

theorem witness_MaskedRequestIsIgnored :
    (onPatchwork []).iff = false ∧ ({ onPatchwork [] with iff := true, inhibit := true } : State).inhibit = true ∧
      passes (fun t => t.pc == 0x0101) (step (onPatchwork [])) = true := by decide

/-- With an interrupt requested at every boundary of the run. -/
theorem witness_HandlerReturnsThroughEiRet :
    let s := onPatchwork [0xFB, 0xC9]
    s.executes = true ∧ s.interruptRequested = true ∧ s.platform.resetReq.getD (s.boundary + 1) false = false ∧
      s.holds s.pc [0xFB, 0xC9] = true ∧ s.canAccess s.sp = true ∧ s.canAccess (s.sp + 1) = true := by decide

theorem witness_InterruptThenRetResumes :
    let s := ({ onPatchwork [] with iff := true } : State).placeBytes 0x0038 [0xC9]
    s.resetRequested = false ∧ s.platform.resetReq.getD (s.boundary + 1) false = false ∧
      s.interruptAccepted = true ∧ s.kindAt (s.sp - 1) = .ram ∧ s.kindAt (s.sp - 2) = .ram ∧
      s.holds s.platform.intVector [0xC9] = true ∧ s.platform.intVector ≠ s.sp - 1 ∧
      s.platform.intVector ≠ s.sp - 2 := by decide

/-- Each clause of InhibitFollowsDiEi, with DI, EI and another instruction for the first. -/
theorem witness_InhibitFollowsDiEi :
    (∃ t, exec .di State.reset = .next t) ∧ (∃ t, exec .ei State.reset = .next t) ∧
      (∃ t, exec .nop State.reset = .next t) ∧ (∃ t, (onPatchwork []).interruptEntry = .next t) ∧
      ({ onPatchwork [] with iff := true } : State).interruptAccepted = true :=
  ⟨⟨_, rfl⟩, ⟨_, rfl⟩, ⟨_, rfl⟩, ⟨_, rfl⟩, by decide⟩

theorem witness_OnlyDiEiHaltWriteControlBits :
    (∃ t, exec .di State.reset = .next t) ∧ (∃ t, exec .ei State.reset = .next t) ∧
      (∃ t, exec .halt State.reset = .next t) ∧ (∃ t, exec .nop State.reset = .next t) :=
  ⟨⟨_, rfl⟩, ⟨_, rfl⟩, ⟨_, rfl⟩, ⟨_, rfl⟩⟩

theorem witness_EiShadowCoversOneInstr :
    ∃ t u, exec .ei (onPatchwork []) = .next t ∧ exec .nop t.tick = .next u ∧ u.interruptRequested = true :=
  ⟨_, _, rfl, rfl, by decide⟩

/-- Instructions that write all, some and none of the flags. -/
theorem witness_FlagsKeptUnlessWritten :
    (∃ t, exec .neg State.reset = .next t) ∧ (∃ t, exec .scf State.reset = .next t) ∧
      (∃ t, exec .nop State.reset = .next t) ∧ (flagsWritten .scf).sf = false ∧ (flagsWritten .nop).cf = false ∧
      (flagsWritten (.incReg .a)).cf = false ∧ (flagsWritten .cpl).zf = false ∧ (flagsWritten .daa).nf = false ∧
      (flagsWritten .rla).pf = false ∧ (flagsWritten .di).hf = false :=
  ⟨⟨_, rfl⟩, ⟨_, rfl⟩, ⟨_, rfl⟩, rfl, rfl, rfl, rfl, rfl, rfl, rfl⟩

theorem witness_MemoryKeptUnlessStored :
    (∃ t, exec (.ldMemHL 0xFFFF) State.reset = .next t) ∧
      (0x0001 : Word) ∉ storeAddresses (.ldMemHL 0xFFFF) State.reset := ⟨⟨_, rfl⟩, by decide⟩

/-- A store into ROM. -/
theorem witness_RomAndPlatformNeverChange :
    (∃ t, step (onPatchwork [0x32, 0xFF, 0x00]) = .next t) ∧ (onPatchwork []).kindAt 0x00FF ≠ .ram :=
  ⟨⟨_, rfl⟩, by decide⟩

theorem witness_PortTraffic :
    (∃ t, exec (.inAImm 0xFF) State.reset = .next t) ∧ (∃ t, exec (.outCReg .b) State.reset = .next t) ∧
      (∃ t, exec .nop State.reset = .next t) := ⟨⟨_, rfl⟩, ⟨_, rfl⟩, ⟨_, rfl⟩⟩

/-- Both clauses: all accesses served; and the second of two not. -/
theorem witness_AccessesDecideOutcome :
    (∀ x ∈ dataAccesses .exSPHL (onPatchwork []), (onPatchwork []).serves x = true) ∧
      dataAccesses (.ldMemHL 0x9FFF) (onPatchwork []) = [.memWrite 0x9FFF] ++ .memWrite 0xA000 :: [] ∧
      (∀ y ∈ [Access.memWrite 0x9FFF], (onPatchwork []).serves y = true) ∧
      (onPatchwork []).serves (.memWrite 0xA000) = false := by decide

/-- The same for a port: the first access is not served. -/
theorem witness_AccessesDecideOutcome_port :
    dataAccesses (.inAImm 0x10) (onPatchwork []) = [] ++ .ioRead 0x10 :: [] ∧
      (onPatchwork []).serves (.ioRead 0x10) = false := by decide

theorem witness_EveryInstrCompletesOnDefaultPlatform :
    State.reset.platform.regions = [] ∧ State.reset.platform.deadPorts = [] := ⟨rfl, rfl⟩

/-- Both conclusions have a case: a step to a next state, and a platform fault. -/
theorem witness_StepKeepsInv :
    State.reset.Inv ∧ (∃ t, step State.reset = .next t) ∧
      (onPatchwork [0x22, 0xFF, 0x9F]).Inv ∧
      ∃ x m, step (onPatchwork [0x22, 0xFF, 0x9F]) = .fault (.platformFault x m) :=
  ⟨⟨rfl, by decide⟩, ⟨_, rfl⟩, ⟨by decide, by decide⟩, ⟨_, _, rfl⟩⟩

/-- A load into a register and one into memory. -/
theorem witness_Load8TouchesOnlyItsDestination :
    load8Destination (.ldRegHL .h) = some (.reg .h) ∧ (∃ t, exec (.ldRegHL .h) State.reset = .next t) ∧
      load8Destination (.ldHLReg .l) = some (.mem .atHL) ∧ ∃ t, exec (.ldHLReg .l) State.reset = .next t :=
  ⟨rfl, ⟨_, rfl⟩, rfl, ⟨_, rfl⟩⟩

theorem witness_MemoriesReadingAlikeAreEqual :
    Memory.wf [(0, 0x01), (65535, 0xFF)] = true ∧
      ∀ a, Memory.read [(0, 0x01), (65535, 0xFF)] a = Memory.read [(0, 0x01), (65535, 0xFF)] a :=
  ⟨by decide, fun _ => rfl⟩

/-- Each clause: a store at the lower edge of the hole, the stack at its upper edge with a condition that holds, and
EX (SP),HL with SP at the lower edge. -/
theorem witness_TwoByteStoreKeepsFirstByte :
    (onPatchwork []).canAccess 0x9FFF = true ∧ (onPatchwork []).canAccess (0x9FFF + 1) = false ∧
      ({ onPatchwork [] with sp := 0xA101 } : State).canAccess (0xA101 - 1) = true ∧
      ({ onPatchwork [] with sp := 0xA101 } : State).canAccess (0xA101 - 2) = false ∧
      (onPatchwork []).flags.holds .nz = true ∧
      ∃ x m, exec .exSPHL { onPatchwork [] with sp := 0x9FFF } = .fault (.platformFault x m) :=
  ⟨by decide, by decide, by decide, by decide, by decide, ⟨_, _, rfl⟩⟩

/-- A first pushed byte remains where the second cannot be stored (60_exceptions.md R402). -/
theorem test_push_has_no_roll_back :
    exec .pushIX { onPatchwork [] with sp := 0xA101, ix := 0x1234 }
      = .fault (.platformFault (.memWrite 0xA0FF) [(0xA100, 0x12)]) := rfl

/-- Operands that can be read: in a register, an immediate, and in memory at an address that wraps. -/
theorem witness_LoadRegisterResult :
    State.reset.canRead (.place (.reg .h)) = true ∧ State.reset.canRead (.imm 0xFF) = true ∧
      State.reset.canRead (.place (.mem (.atIX 0x80))) = true ∧
      (onPatchwork []).canRead (.place (.mem (.atAddr 0x9FFF))) = true := by decide

/-- In RAM and in ROM. -/
theorem witness_StoreByteResult :
    (onPatchwork []).canAccess ((onPatchwork []).address (.atAddr 0xFFFF)) = true ∧
      (onPatchwork []).canAccess ((onPatchwork []).address .atHL) = true ∧
      (onPatchwork []).kindAt ((onPatchwork []).address .atHL) = .rom := by decide

/-- At FFFFh the second byte is at 0000h. -/
theorem witness_LoadPairResult :
    State.reset.canAccess 0xFFFF = true ∧ State.reset.canAccess (0xFFFF + 1) = true := by decide

theorem witness_StorePairResult :
    State.reset.canAccess 0xFFFF = true ∧ State.reset.canAccess (0xFFFF + 1) = true := by decide

theorem witness_ExchangeWithStackTop :
    let s : State := { State.reset with sp := 0xFFFF }
    s.canAccess s.sp = true ∧ s.canAccess (s.sp + 1) = true := by decide

/-- SP = 0000h: the bytes go to FFFFh and FFFEh. -/
theorem witness_PushResult :
    State.reset.canAccess (State.reset.sp - 1) = true ∧ State.reset.canAccess (State.reset.sp - 2) = true := by decide

theorem witness_PopResult :
    State.reset.canAccess State.reset.sp = true ∧ State.reset.canAccess (State.reset.sp + 1) = true := by decide

theorem witness_PushThenPopRestores :
    State.reset.kindAt (State.reset.sp - 1) = .ram ∧ State.reset.kindAt (State.reset.sp - 2) = .ram := by decide

/-- The operand forms of AddResult, SubtractResult, CompareResult and LogicResult. -/
theorem witness_AddResult : ∀ src ∈ [Source.place (.reg .a), .imm 0xFF, .place (.mem .atHL), .place (.mem (.atIX 0x7F)),
    .place (.mem (.atIY 0x80))], State.reset.canRead src = true := by decide

theorem witness_SubtractResult : ∀ src ∈ [Source.place (.reg .a), .imm 0xFF, .place (.mem .atHL),
    .place (.mem (.atIX 0x7F)), .place (.mem (.atIY 0x80))], State.reset.canRead src = true := by decide

theorem witness_CompareResult : ∀ src ∈ [Source.place (.reg .a), .imm 0xFF, .place (.mem .atHL),
    .place (.mem (.atIX 0x7F)), .place (.mem (.atIY 0x80))], State.reset.canRead src = true := by decide

theorem witness_LogicResult : ∀ src ∈ [Source.place (.reg .a), .imm 0xFF, .place (.mem .atHL),
    .place (.mem (.atIX 0x7F)), .place (.mem (.atIY 0x80))], State.reset.canRead src = true := by decide

/-- The places of IncDecByteResult, ShiftRotateResult, BitTestResult and SetResBitResult; HL points into ROM. -/
theorem witness_IncDecByteResult : ∀ p ∈ [Place.reg .a, .mem .atHL, .mem (.atIX 0x7F), .mem (.atIY 0x80)],
    (onPatchwork []).canRead (.place p) = true := by decide

theorem witness_ShiftRotateResult : ∀ p ∈ [Place.reg .a, .mem .atHL, .mem (.atIX 0x7F), .mem (.atIY 0x80)],
    (onPatchwork []).canRead (.place p) = true := by decide

theorem witness_BitTestResult : ∀ p ∈ [Place.reg .a, .mem .atHL, .mem (.atIX 0x7F), .mem (.atIY 0x80)],
    (onPatchwork []).canRead (.place p) = true := by decide

theorem witness_SetResBitResult : ∀ p ∈ [Place.reg .a, .mem .atHL, .mem (.atIX 0x7F), .mem (.atIY 0x80)],
    (onPatchwork []).canRead (.place p) = true := by decide

/-- The largest digits, in a register, immediate and in memory. -/
theorem witness_DaaMakesDecimalArithmetic :
    let s := (((ready []).setA 0x99).setReg8 .b 0x99).poke 0x0000 0x99
    isBcd s.regs.a = true ∧ isBcd (s.byteOf (.place (.reg .b))) = true ∧ isBcd (s.byteOf (.imm 0x99)) = true ∧
      s.canRead (.place (.mem (.atIX 0x00))) = true ∧ isBcd (s.byteOf (.place (.mem (.atIX 0x00)))) = true := by decide

/-- Both stack bytes for the taken forms, and a false condition for the others. -/
theorem witness_CallAndRestartResult :
    State.reset.canAccess (State.reset.sp - 1) = true ∧ State.reset.canAccess (State.reset.sp - 2) = true ∧
      State.reset.flags.holds .nz = true ∧ State.reset.flags.holds .z = false := by decide

theorem witness_ReturnResult :
    State.reset.canAccess State.reset.sp = true ∧ State.reset.canAccess (State.reset.sp + 1) = true ∧
      State.reset.flags.holds .po = true ∧ State.reset.flags.holds .m = false := by decide

theorem witness_CallThenRetReturns :
    State.reset.kindAt (State.reset.sp - 1) = .ram ∧ State.reset.kindAt (State.reset.sp - 2) = .ram := by decide

theorem witness_DigitRotateResult : State.reset.canAccess (State.reset.address .atHL) = true := by decide

/-- Every port but the dead one; and a platform that answers the next read of port 00h, for the last clause. -/
theorem witness_InputResult :
    (onPatchwork []).canUsePort 0xFF = true ∧ (onPatchwork []).canUsePort (onPatchwork []).regs.c = true ∧
      ({ State.reset with platform := { Platform.default with ioIn := [⟨0x00, 0, 0xFF⟩] } } : State).platform.ioIn
        = ⟨0x00, State.reset.ioReads, 0xFF⟩ :: [] := by decide

theorem witness_OutputResult :
    (onPatchwork []).canUsePort 0xFF = true ∧ (onPatchwork []).canUsePort (onPatchwork []).regs.c = true := by decide

end Sys2Proof.Tests
end

section
/-! SUPPORT. What an instruction of any row leaves unchanged (10_state.md R22, R28 to R30, R34): the flags its row does
not write, IFF and the halt state. One lemma per shape of instruction, then one inversion lemma for exec. -/

namespace Sys2Proof.Machine

/-! ## Which flags an update writes -/

/-- Of the flags `f`, those that `w` does not list stand unchanged in `g`. -/
structure FlagsKept (w f g : Flags) : Prop where
  sf : w.sf = false → g.sf = f.sf
  zf : w.zf = false → g.zf = f.zf
  hf : w.hf = false → g.hf = f.hf
  pf : w.pf = false → g.pf = f.pf
  nf : w.nf = false → g.nf = f.nf
  cf : w.cf = false → g.cf = f.cf

theorem FlagsKept.of_eq {w f g : Flags} (h : g = f) : FlagsKept w f g := by
  subst h; exact ⟨fun _ => rfl, fun _ => rfl, fun _ => rfl, fun _ => rfl, fun _ => rfl, fun _ => rfl⟩

theorem FlagsKept.all (f g : Flags) : FlagsKept allFlags f g := by
  constructor <;> exact fun h => nomatch h

theorem FlagsKept.allButC {f g : Flags} (h : g.cf = f.cf) : FlagsKept { allFlags with cf := false } f g where
  sf h := nomatch h
  zf h := nomatch h
  hf h := nomatch h
  pf h := nomatch h
  nf h := nomatch h
  cf _ := h

/-- H, N and C alone are written: ADD of 16 bits, CCF, SCF and the rotates of A (10_state.md R34). -/
theorem FlagsKept.onlyHNC (f : Flags) (hNew nNew cNew : Bool) :
    FlagsKept { noFlags with hf := true, nf := true, cf := true } f
      { f with hf := hNew, nf := nNew, cf := cNew } where
  sf _ := rfl
  zf _ := rfl
  hf h := nomatch h
  pf _ := rfl
  nf h := nomatch h
  cf h := nomatch h

theorem incByte_flagsKept (v : Byte) (f : Flags) : FlagsKept { allFlags with cf := false } f (incByte v f).2 :=
  .allButC rfl

theorem decByte_flagsKept (v : Byte) (f : Flags) : FlagsKept { allFlags with cf := false } f (decByte v f).2 :=
  .allButC rfl

theorem byteFlags_flagsKept (v : Byte) (f : Flags) : FlagsKept { allFlags with cf := false } f (byteFlags v f) :=
  .allButC rfl

theorem daaA_flagsKept (a : Byte) (f : Flags) : FlagsKept { allFlags with nf := false } f (daaA a f).2 where
  sf h := nomatch h
  zf h := nomatch h
  hf h := nomatch h
  pf h := nomatch h
  nf _ := rfl
  cf h := nomatch h

theorem cplA_flagsKept (a : Byte) (f : Flags) :
    FlagsKept { noFlags with hf := true, nf := true } f (cplA a f).2 where
  sf _ := rfl
  zf _ := rfl
  hf h := nomatch h
  pf _ := rfl
  nf h := nomatch h
  cf _ := rfl

theorem rotateA_flagsKept (shift : Byte → Bool → Byte × Bool) (a : Byte) (f : Flags) :
    FlagsKept { noFlags with hf := true, nf := true, cf := true } f (rotateA shift a f).2 := .onlyHNC ..

theorem setBit_flagsKept (b : BitIndex) (v : Byte) (f : Flags) : FlagsKept noFlags f (setBit b v f).2 := .of_eq rfl

theorem resBit_flagsKept (b : BitIndex) (v : Byte) (f : Flags) : FlagsKept noFlags f (resBit b v f).2 := .of_eq rfl

/-! ## What the composite updates leave unchanged -/

@[simp] theorem State.putPlace_flags (s : State) (p : Place) (v : Byte) : (s.putPlace p v).flags = s.flags := by
  cases p <;> simp [State.putPlace]
@[simp] theorem State.putPlace_iff (s : State) (p : Place) (v : Byte) : (s.putPlace p v).iff = s.iff := by
  cases p <;> simp [State.putPlace]
@[simp] theorem State.putPlace_halted (s : State) (p : Place) (v : Byte) :
    (s.putPlace p v).halted = s.halted := by
  cases p <;> simp [State.putPlace]

@[simp] theorem State.pushed_regs (s : State) (w : Word) : (s.pushed w).regs = s.regs := by simp [State.pushed]
@[simp] theorem State.pushed_flags (s : State) (w : Word) : (s.pushed w).flags = s.flags := by simp [State.pushed]
@[simp] theorem State.pushed_ix (s : State) (w : Word) : (s.pushed w).ix = s.ix := by simp [State.pushed]
@[simp] theorem State.pushed_iy (s : State) (w : Word) : (s.pushed w).iy = s.iy := by simp [State.pushed]
@[simp] theorem State.pushed_sp (s : State) (w : Word) : (s.pushed w).sp = s.sp - 2 := rfl
@[simp] theorem State.pushed_iff (s : State) (w : Word) : (s.pushed w).iff = s.iff := by simp [State.pushed]
@[simp] theorem State.pushed_inhibit (s : State) (w : Word) : (s.pushed w).inhibit = s.inhibit := by
  simp [State.pushed]
@[simp] theorem State.pushed_halted (s : State) (w : Word) : (s.pushed w).halted = s.halted := by
  simp [State.pushed]
@[simp] theorem State.pushed_platform (s : State) (w : Word) : (s.pushed w).platform = s.platform := by
  simp [State.pushed]

/-! ## The pair a qq operand names (10_state.md R23) -/

/-- What PUSH qq puts on the stack: of AF, A and a byte F whose bits 5 and 3 are the next two free bits (log 6). -/
def State.qqValue (s : State) : RegQQ → Word
  | .bc => s.reg16 .bc
  | .de => s.reg16 .de
  | .hl => s.reg16 .hl
  | .af => word s.regs.a (flagByte s.flags (Config.any1 s.draws) (Config.any1 (s.draws + 1)))

/-- The state after PUSH qq has drawn its free bits: two for AF, none for the others. -/
def State.qqDrawn (s : State) : RegQQ → State
  | .bc | .de | .hl => s
  | .af => { s with draws := s.draws + 1 + 1 }

theorem State.readQQ_eq (s : State) (qq : RegQQ) (k : Word → State → Result) :
    s.readQQ qq k = k (s.qqValue qq) (s.qqDrawn qq) := by cases qq <;> rfl

@[simp] theorem State.qqDrawn_regs (s : State) (qq : RegQQ) : (s.qqDrawn qq).regs = s.regs := by cases qq <;> rfl
@[simp] theorem State.qqDrawn_flags (s : State) (qq : RegQQ) : (s.qqDrawn qq).flags = s.flags := by
  cases qq <;> rfl
@[simp] theorem State.qqDrawn_ix (s : State) (qq : RegQQ) : (s.qqDrawn qq).ix = s.ix := by cases qq <;> rfl
@[simp] theorem State.qqDrawn_iy (s : State) (qq : RegQQ) : (s.qqDrawn qq).iy = s.iy := by cases qq <;> rfl
@[simp] theorem State.qqDrawn_sp (s : State) (qq : RegQQ) : (s.qqDrawn qq).sp = s.sp := by cases qq <;> rfl
@[simp] theorem State.qqDrawn_iff (s : State) (qq : RegQQ) : (s.qqDrawn qq).iff = s.iff := by cases qq <;> rfl
@[simp] theorem State.qqDrawn_halted (s : State) (qq : RegQQ) : (s.qqDrawn qq).halted = s.halted := by
  cases qq <;> rfl
@[simp] theorem State.qqDrawn_kindAt (s : State) (qq : RegQQ) (a : Word) :
    (s.qqDrawn qq).kindAt a = s.kindAt a := by cases qq <;> rfl

theorem exec_pushPair (s : State) (qq : RegQQ) :
    exec (.pushPair qq) s = (s.qqDrawn qq).push (s.qqValue qq) fun u => u.finish 1 := by
  simp only [exec, execPushPair, State.readQQ_eq]

theorem exec_popPair (s : State) (qq : RegQQ) :
    exec (.popPair qq) s = s.pop fun w u => (u.writeQQ qq w).finish 1 := rfl

/-! ## The frame of an instruction other than DI, EI and HALT -/

/-- What the end of an instruction other than DI, EI and HALT shows, if the row writes the flags `w`: IFF and the halt
state as before, inhibit cleared, the other flags as before (10_state.md R22, R28 to R30). -/
structure Frame (w : Flags) (s t : State) : Prop where
  iff_kept : t.iff = s.iff
  halted_kept : t.halted = s.halted
  inhibit_cleared : t.inhibit = false
  flags_kept : FlagsKept w s.flags t.flags

/-- The instruction ends by State.retire, after updates that kept the control bits. -/
theorem Frame.retire {w : Flags} {s u : State} (len : Word) (hiff : u.iff = s.iff) (hhalted : u.halted = s.halted)
    (hflags : FlagsKept w s.flags u.flags) : Frame w s (u.retire len) := ⟨hiff, hhalted, rfl, hflags⟩

/-- The instruction ends by State.jumpTo, after updates that kept the control bits and all flags. -/
theorem Frame.jumpTo {w : Flags} {s u : State} (target : Word) (hiff : u.iff = s.iff)
    (hhalted : u.halted = s.halted) (hflags : u.flags = s.flags) : Frame w s (u.jumpTo target) :=
  ⟨hiff, hhalted, rfl, .of_eq hflags⟩

section shapes

variable {s t : State} {w : Flags} {len : Word}

theorem finish_frame (h : s.finish len = .next t) : Frame w s t := by
  rw [finish_next.1 h]; exact .retire _ rfl rfl (.of_eq rfl)

theorem moveByte_frame {dst : Place} {src : Source} (h : moveByte dst src len s = .next t) :
    Frame noFlags s t := by
  have key (v : Byte) : Frame noFlags s ((s.putPlace dst v).retire len) :=
    .retire _ (by simp) (by simp) (.of_eq (by simp))
  cases src with
  | place p => obtain ⟨-, -, rfl⟩ := moveByte_next.1 h; exact key _
  | imm n => obtain ⟨-, rfl⟩ := moveByte_next.1 h; exact key _

theorem combineA_frame {op : Byte → Byte → Flags → Byte × Flags} {src : Source}
    (h : combineA op src len s = .next t) : Frame allFlags s t := by
  cases src with
  | place p => obtain ⟨-, rfl⟩ := combineA_next.1 h; exact .retire _ rfl rfl (.all ..)
  | imm n => rw [combineA_next.1 h]; exact .retire _ rfl rfl (.all ..)

theorem changeA_frame {op : Byte → Flags → Byte × Flags} (hop : ∀ a f, FlagsKept w f (op a f).2)
    (h : changeA op len s = .next t) : Frame w s t := by
  rw [changeA_next.1 h]; exact .retire _ rfl rfl (hop ..)

theorem modifyByte_frame {op : Byte → Flags → Byte × Flags} {p : Place} (hop : ∀ v f, FlagsKept w f (op v f).2)
    (h : modifyByte op p len s = .next t) : Frame w s t := by
  obtain ⟨-, rfl⟩ := modifyByte_next.1 h
  exact .retire _ (by simp) (by simp) (hop ..)

theorem testBit_frame {b : BitIndex} {p : Place} (h : testBit b p len s = .next t) :
    Frame { allFlags with cf := false } s t := by
  obtain ⟨-, rfl⟩ := testBit_next.1 h
  exact .retire _ rfl rfl (.allButC rfl)

theorem assign16_frame {dst : Reg16} {v : Word} (h : assign16 dst v len s = .next t) : Frame noFlags s t := by
  rw [assign16_next.1 h]; exact .retire _ (by simp) (by simp) (.of_eq (by simp))

theorem loadReg16_frame {dst : Reg16} {nn : Word} (h : loadReg16 dst nn len s = .next t) : Frame noFlags s t := by
  obtain ⟨-, -, rfl⟩ := loadReg16_next.1 h
  exact .retire _ (by simp) (by simp) (.of_eq (by simp))

theorem storeReg16_frame {src : Reg16} {nn : Word} (h : storeReg16 nn src len s = .next t) :
    Frame noFlags s t := by
  obtain ⟨-, -, rfl⟩ := storeReg16_next.1 h
  exact .retire _ (by simp) (by simp) (.of_eq (by simp))

theorem pushReg16_frame {src : Reg16} (h : pushReg16 src len s = .next t) : Frame noFlags s t := by
  obtain ⟨-, -, rfl⟩ := pushReg16_next.1 h
  exact .retire _ (by simp) (by simp) (.of_eq (by simp))

theorem popReg16_frame {dst : Reg16} (h : popReg16 dst len s = .next t) : Frame noFlags s t := by
  obtain ⟨-, -, rfl⟩ := popReg16_next.1 h
  exact .retire _ (by simp) (by simp) (.of_eq (by simp))

theorem addReg16_frame {dst src : Reg16} (h : addReg16 dst src len s = .next t) :
    Frame { noFlags with hf := true, nf := true, cf := true } s t := by
  rw [addReg16_next.1 h]; exact .retire _ (by simp) (by simp) (.onlyHNC ..)

theorem rotateDigits_frame {op : Byte → Byte → Byte × Byte} (h : rotateDigits op s = .next t) :
    Frame { allFlags with cf := false } s t := by
  obtain ⟨-, rfl⟩ := rotateDigits_next.1 h
  exact .retire _ (by simp) (by simp) (byteFlags_flagsKept ..)

theorem jumpTo_frame {target : Word} (h : (.next (s.jumpTo target) : Result) = .next t) : Frame w s t := by
  rw [next_eq_next.1 h]; exact .jumpTo _ rfl rfl rfl

theorem callTo_frame {target : Word} (h : callTo target len s = .next t) : Frame w s t := by
  obtain ⟨-, -, rfl⟩ := callTo_next.1 h
  exact .jumpTo _ (by simp) (by simp) (by simp)

theorem returnFromCall_frame (h : s.returnFromCall = .next t) : Frame w s t := by
  obtain ⟨-, -, rfl⟩ := returnFromCall_next.1 h
  exact .jumpTo _ rfl rfl rfl

/-- A conditional instruction has the frame that both its branches have. -/
theorem ite_frame {c : Prop} [Decidable c] {taken other : Result} (h : (if c then taken else other) = .next t)
    (htaken : taken = .next t → Frame w s t) (hother : other = .next t → Frame w s t) : Frame w s t := by
  split at h
  · exact htaken h
  · exact hother h

end shapes

/-! ## The instructions of no shared shape -/

theorem exSPHL_frame {s t : State} (h : exec .exSPHL s = .next t) : Frame noFlags s t := by
  simp only [exec, execExSPHL] at h
  obtain ⟨-, -, hstores⟩ := State.load16_next.1 h
  obtain ⟨-, hstore⟩ := State.store_next.1 hstores
  obtain ⟨-, hassign⟩ := State.store_next.1 hstore
  rw [assign16_next.1 hassign]
  exact .retire _ (by simp) (by simp) (.of_eq (by simp))

theorem pushPair_frame {s t : State} {qq : RegQQ} (h : exec (.pushPair qq) s = .next t) : Frame noFlags s t := by
  rw [exec_pushPair] at h
  obtain ⟨-, -, hfinish⟩ := State.push_next.1 h
  rw [finish_next.1 hfinish]
  exact .retire _ (by simp) (by simp) (.of_eq (by simp))

/-- POP AF writes all six flags, POP of another pair none (41_load16.md R160). -/
theorem popPair_frame {s t : State} {qq : RegQQ} (h : exec (.popPair qq) s = .next t) :
    Frame (flagsWritten (.popPair qq)) s t := by
  rw [exec_popPair] at h
  obtain ⟨-, -, hfinish⟩ := State.pop_next.1 h
  rw [finish_next.1 hfinish]
  refine .retire _ (by simp) (by simp) ?_
  cases qq with
  | af => exact .all ..
  | bc | de | hl => exact .of_eq rfl

/-! ## All instructions -/

/-- Every row but DI, EI and HALT has the frame of the flags it writes. -/
theorem exec_frame {i : Instr} {s t : State} (hdi : i ≠ .di) (hei : i ≠ .ei) (hhalt : i ≠ .halt)
    (h : exec i s = .next t) : Frame (flagsWritten i) s t := by
  cases i with dsimp only [exec] at h
  | di => exact absurd rfl hdi
  | ei => exact absurd rfl hei
  | halt => exact absurd rfl hhalt
  | ldRegReg _ _ | ldRegImm _ _ | ldRegHL _ | ldRegIX _ _ | ldRegIY _ _ | ldHLReg _ | ldIXReg _ _ | ldIYReg _ _
  | ldHLImm _ | ldIXImm _ _ | ldIYImm _ _ | ldABC | ldADE | ldAMem _ | ldBCA | ldDEA | ldMemA _ =>
    exact moveByte_frame h
  | ldPairImm _ _ | ldIXImm16 _ | ldIYImm16 _ | ldSPHL | ldSPIX | ldSPIY | incPair _ | incIX16 | incIY16
  | decPair _ | decIX16 | decIY16 => exact assign16_frame h
  | ldHLMem _ | ldPairMem _ _ | ldIXMem _ | ldIYMem _ => exact loadReg16_frame h
  | ldMemHL _ | ldMemPair _ _ | ldMemIX _ | ldMemIY _ => exact storeReg16_frame h
  | pushIX | pushIY => exact pushReg16_frame h
  | popIX | popIY => exact popReg16_frame h
  | addAReg _ | addAImm _ | addAHL | addAIX _ | addAIY _ | adcAReg _ | adcAImm _ | adcAHL | adcAIX _ | adcAIY _
  | subAReg _ | subAImm _ | subAHL | subAIX _ | subAIY _ | sbcAReg _ | sbcAImm _ | sbcAHL | sbcAIX _ | sbcAIY _
  | cpAReg _ | cpAImm _ | cpAHL | cpAIX _ | cpAIY _ | andAReg _ | andAImm _ | andAHL | andAIX _ | andAIY _
  | orAReg _ | orAImm _ | orAHL | orAIX _ | orAIY _ | xorAReg _ | xorAImm _ | xorAHL | xorAIX _ | xorAIY _ =>
    exact combineA_frame h
  | incReg _ | incHL | incIX _ | incIY _ => exact modifyByte_frame incByte_flagsKept h
  | decReg _ | decHL | decIX _ | decIY _ => exact modifyByte_frame decByte_flagsKept h
  | daa => exact changeA_frame daaA_flagsKept h
  | cpl => exact changeA_frame cplA_flagsKept h
  | neg => exact changeA_frame (fun _ _ => .all ..) h
  | addHLPair _ | addIXPair _ | addIYPair _ => exact addReg16_frame h
  | nop => exact finish_frame h
  | jp _ | jpHL | jpIX | jpIY => exact jumpTo_frame h
  | call _ | rst _ => exact callTo_frame h
  | ret => exact returnFromCall_frame h
  | rlca | rla | rrca | rra => exact changeA_frame (rotateA_flagsKept _) h
  | rlcReg _ | rlcHL | rlcIX _ | rlcIY _ | rlReg _ | rlHL | rlIX _ | rlIY _ | rrcReg _ | rrcHL | rrcIX _
  | rrcIY _ | rrReg _ | rrHL | rrIX _ | rrIY _ | slaReg _ | slaHL | slaIX _ | slaIY _ | sraReg _ | sraHL
  | sraIX _ | sraIY _ | srlReg _ | srlHL | srlIX _ | srlIY _ =>
    exact modifyByte_frame (fun _ _ => .all ..) h
  | rld | rrd => exact rotateDigits_frame h
  | bitReg _ _ | bitHL _ | bitIX _ _ | bitIY _ _ => exact testBit_frame h
  | setReg _ _ | setHL _ | setIX _ _ | setIY _ _ => exact modifyByte_frame (setBit_flagsKept _) h
  | resReg _ _ | resHL _ | resIX _ _ | resIY _ _ => exact modifyByte_frame (resBit_flagsKept _) h
  | exDEHL => rw [finish_next.1 h]; exact .retire _ (by simp) (by simp) (.of_eq (by simp))
  | exSPHL => exact exSPHL_frame h
  | pushPair qq => exact pushPair_frame h
  | popPair qq => exact popPair_frame h
  | adcHLPair _ | sbcHLPair _ => rw [finish_next.1 h]; exact .retire _ (by simp) (by simp) (.all ..)
  | ccf | scf => rw [finish_next.1 h]; exact .retire _ rfl rfl (.onlyHNC ..)
  | jpCond _ _ => exact ite_frame h jumpTo_frame finish_frame
  | callCond _ _ => exact ite_frame h callTo_frame finish_frame
  | retCond _ => exact ite_frame h returnFromCall_frame finish_frame
  | inAImm _ =>
    obtain ⟨-, hfinish⟩ := State.input_next.1 h
    rw [finish_next.1 hfinish]
    exact .retire _ rfl rfl (.of_eq rfl)
  | inRegC _ =>
    obtain ⟨-, hfinish⟩ := State.input_next.1 h
    rw [finish_next.1 hfinish]
    exact .retire _ (by simp) (by simp) (.allButC (by simp [byteFlags]))
  | outImmA _ | outCReg _ =>
    obtain ⟨-, hfinish⟩ := State.output_next.1 h
    rw [finish_next.1 hfinish]
    exact .retire _ rfl rfl (.of_eq rfl)

/-- What a completed instruction did to the control bits and the flags: DI, EI and HALT in full, any other row by its
frame. -/
theorem exec_cases {i : Instr} {s t : State} (h : exec i s = .next t) :
    (i = .di ∧ t = { s.retireInhibited 1 with iff := false }) ∨
    (i = .ei ∧ t = { s.retireInhibited 1 with iff := true }) ∨
    (i = .halt ∧ t = { s.retire 1 with halted := true }) ∨
    (i ≠ .di ∧ i ≠ .ei ∧ i ≠ .halt ∧ Frame (flagsWritten i) s t) := by
  by_cases hdi : i = .di
  · subst hdi; exact .inl ⟨rfl, next_eq_next.1 h⟩
  by_cases hei : i = .ei
  · subst hei; exact .inr (.inl ⟨rfl, next_eq_next.1 h⟩)
  by_cases hhalt : i = .halt
  · subst hhalt; exact .inr (.inr (.inl ⟨rfl, next_eq_next.1 h⟩))
  exact .inr (.inr (.inr ⟨hdi, hei, hhalt, exec_frame hdi hei hhalt h⟩))

end Sys2Proof.Machine
end

section
/-! PROOF. The control bits and the flags over all instructions. -/

namespace Sys2Proof.Machine

/-- Settles O15: DI and EI leave inhibit set, and the frame of every other row has it cleared. -/
theorem inhibitFollowsDiEi : Obligations.InhibitFollowsDiEi := by
  refine ⟨fun i s t h => ?_, fun s t h => ?_, State.applyReset_inhibit, fun s h => ?_⟩
  · rcases exec_cases h with ⟨rfl, rfl⟩ | ⟨rfl, rfl⟩ | ⟨rfl, rfl⟩ | ⟨hdi, hei, -, hframe⟩
    · simp
    · simp
    · simp
    · simp [hframe.inhibit_cleared, hdi, hei]
  · obtain ⟨-, -, rfl⟩ := interruptEntry_next.1 h
    simp
  · simp only [State.interruptAccepted, Bool.and_eq_true, Bool.not_eq_true'] at h
    obtain ⟨⟨-, hclear⟩, -⟩ := h
    exact hclear

/-- Settles O16: outside DI, EI and HALT the frame keeps both bits. -/
theorem onlyDiEiHaltWriteControlBits : Obligations.OnlyDiEiHaltWriteControlBits := by
  intro i s t h
  rcases exec_cases h with ⟨rfl, rfl⟩ | ⟨rfl, rfl⟩ | ⟨rfl, rfl⟩ | ⟨hdi, hei, hhalt, hframe⟩
  · simp
  · simp
  · simp
  · simp [hframe.iff_kept, hframe.halted_kept, hdi, hei, hhalt]

/-- Settles O18: DI, EI and HALT leave the flags alone, and the frame of every other row is that of the flags it
writes. -/
theorem flagsKeptUnlessWritten : Obligations.FlagsKeptUnlessWritten := by
  intro i s t h
  have hkept : FlagsKept (flagsWritten i) s.flags t.flags := by
    rcases exec_cases h with ⟨-, rfl⟩ | ⟨-, rfl⟩ | ⟨-, rfl⟩ | ⟨-, -, -, hframe⟩
    · exact .of_eq rfl
    · exact .of_eq rfl
    · exact .of_eq rfl
    · exact hframe.flags_kept
  exact ⟨hkept.sf, hkept.zf, hkept.hf, hkept.pf, hkept.nf, hkept.cf⟩

end Sys2Proof.Machine
end

section
/-! PROOF. What PUSH put down, POP takes up (10_state.md R23, 20_memory.md R59). -/

namespace Sys2Proof.Machine

/-! ## A push on a stack in RAM, and the pop after it -/

theorem State.canAccess_of_ram {s : State} {a : Word} (h : s.kindAt a = .ram) : s.canAccess a = true := by
  simp [State.canAccess, h]

@[simp] theorem State.pushed_canAccess (s : State) (w a : Word) : (s.pushed w).canAccess a = s.canAccess a := by
  simp [State.canAccess, State.kindAt]

theorem State.push_on_ram {s : State} (h1 : s.kindAt (s.sp - 1) = .ram) (h2 : s.kindAt (s.sp - 2) = .ram)
    (w len : Word) : (s.push w fun u => u.finish len) = .next ((s.pushed w).retire len) :=
  State.push_next.2 ⟨canAccess_of_ram h1, canAccess_of_ram h2, rfl⟩

/-- The word at the top of the stack after a push on RAM is the word pushed. -/
theorem State.word_at_top_of_pushed {s : State} (h1 : s.kindAt (s.sp - 1) = .ram)
    (h2 : s.kindAt (s.sp - 2) = .ram) (w : Word) :
    word ((s.pushed w).peek (s.sp - 1)) ((s.pushed w).peek (s.sp - 2)) = w := by
  have hne : s.sp - 1 ≠ s.sp - 2 := by bv_omega
  rw [State.peek_pushed, State.peek_pushed, if_neg (fun h => hne h.1), if_pos ⟨rfl, h1⟩, if_pos ⟨rfl, h2⟩,
    word_highByte_lowByte]

theorem State.pop_of_access {s : State} (h1 : s.canAccess s.sp = true) (h2 : s.canAccess (s.sp + 1) = true)
    (k : Word → State → Result) :
    s.pop k = k (word (s.peek (s.sp + 1)) (s.peek s.sp)) { s with sp := s.sp + 1 + 1 } := by
  simp only [State.pop, State.load_of_access h1]
  exact State.load_of_access (s := { s with sp := s.sp + 1 }) h2 _

/-- A pop directly after an instruction that pushed on RAM answers with the word pushed and SP as before the push. -/
theorem State.pop_after_push {s : State} (h1 : s.kindAt (s.sp - 1) = .ram) (h2 : s.kindAt (s.sp - 2) = .ram)
    (w len : Word) (k : Word → State → Result) :
    ((s.pushed w).retire len).pop k = k w { (s.pushed w).retire len with sp := s.sp } := by
  have hup : s.sp - 2 + 1 = s.sp - 1 := by bv_omega
  have hback : s.sp - 1 + 1 = s.sp := by bv_omega
  have haccess (a : Word) : ((s.pushed w).retire len).canAccess a = s.canAccess a := s.pushed_canAccess w a
  have hpeek (a : Word) : ((s.pushed w).retire len).peek a = (s.pushed w).peek a := rfl
  rw [State.pop_of_access]
  · rw [hpeek, hpeek, State.retire_sp, State.pushed_sp, hup, hback, State.word_at_top_of_pushed h1 h2]
  · rw [haccess]; exact canAccess_of_ram h2
  · rw [haccess, State.retire_sp, State.pushed_sp, hup]; exact canAccess_of_ram h1

/-! ## The registers after the pop -/

/-- The six flags survive the byte F, whatever its bits 5 and 3 (10_state.md R23). -/
@[simp] theorem flagsOfByte_flagByte (f : Flags) (five three : Bool) : flagsOfByte (flagByte f five three) = f := by
  obtain ⟨sf, zf, hf, pf, nf, cf⟩ := f
  revert sf zf hf pf nf cf five three
  decide

/-- Writing back to a pair the word PUSH read from it changes no register and no flag. -/
theorem State.writeQQ_qqValue {s t : State} (qq : RegQQ) (hregs : t.regs = s.regs) (hflags : t.flags = s.flags) :
    (t.writeQQ qq (s.qqValue qq)).regs = s.regs ∧ (t.writeQQ qq (s.qqValue qq)).flags = s.flags := by
  cases qq <;>
    simp [State.writeQQ, State.qqValue, State.reg16, State.setReg16, hregs, hflags]

/-- From `s`, `push` and then `pop` complete and leave the registers and flags as before; pc is not
spoken of. -/
def State.RestoredBy (s : State) (push pop : State → Result) : Prop :=
  ∃ t u, push s = .next t ∧ pop t = .next u ∧
    u.regs = s.regs ∧ u.flags = s.flags ∧ u.ix = s.ix ∧ u.iy = s.iy ∧ u.sp = s.sp

theorem pushPair_popPair_restores {s : State} (h1 : s.kindAt (s.sp - 1) = .ram) (h2 : s.kindAt (s.sp - 2) = .ram)
    (qq : RegQQ) : s.RestoredBy (exec (.pushPair qq)) (exec (.popPair qq)) := by
  have hd1 : (s.qqDrawn qq).kindAt ((s.qqDrawn qq).sp - 1) = .ram := by simpa using h1
  have hd2 : (s.qqDrawn qq).kindAt ((s.qqDrawn qq).sp - 2) = .ram := by simpa using h2
  obtain ⟨hregs, hflags⟩ := State.writeQQ_qqValue (s := s)
    (t := { ((s.qqDrawn qq).pushed (s.qqValue qq)).retire 1 with sp := (s.qqDrawn qq).sp }) qq (by simp) (by simp)
  exact ⟨_, _, (exec_pushPair s qq).trans (State.push_on_ram hd1 hd2 _ _),
    (exec_popPair _ qq).trans (State.pop_after_push hd1 hd2 _ _ _), hregs, hflags, by simp, by simp, by simp⟩

/-- SP apart, every 16-bit register takes back the word pushed from it; a pair is rebuilt from its two halves. -/
theorem pushReg16_popReg16_restores {s : State} (h1 : s.kindAt (s.sp - 1) = .ram)
    (h2 : s.kindAt (s.sp - 2) = .ram) {r : Reg16} (hr : r ≠ .sp) (len : Word) :
    s.RestoredBy (pushReg16 r len) (popReg16 r len) := by
  refine ⟨_, _, State.push_on_ram h1 h2 _ _, State.pop_after_push h1 h2 _ _ _, ?_⟩
  cases r with
  | sp => exact absurd rfl hr
  | bc | de | hl | ix | iy => simp [State.setReg16, State.reg16]

/-- Settles O37: the word pushed is the word popped, and each pair takes back what it gave. -/
theorem pushThenPopRestores : Obligations.PushThenPopRestores := by
  intro s qq h1 h2 e he
  simp only [List.mem_cons, List.not_mem_nil, or_false] at he
  rcases he with rfl | rfl | rfl
  · exact pushPair_popPair_restores h1 h2 qq
  · exact pushReg16_popReg16_restores h1 h2 (r := .ix) nofun 2
  · exact pushReg16_popReg16_restores h1 h2 (r := .iy) nofun 2

end Sys2Proof.Machine
end

section
/-! PROOF. The halted machine and the state after reset. -/

namespace Sys2Proof.Machine

theorem step_of_halted {s : State} (hhalted : s.halted = true) (hreset : s.resetRequested = false)
    (haccepted : s.interruptAccepted = false) : step s = .next s.tick := by
  simp [step, hhalted, hreset, haccepted]

theorem run_succ_of_next (M : Host.Core) {s t : M.State} (h : M.step s = .next t) (n : Nat) :
    M.run (n + 1) s = M.run n t := by
  simp only [Host.Core.run, h]

theorem interruptAccepted_of_iff_off {s : State} (h : s.iff = false) : s.interruptAccepted = false := by
  simp [State.interruptAccepted, h]

/-- As long as no boundary brings a reset or an accepted interrupt, a halted machine lets the boundaries pass. -/
theorem run_of_halted (n : Nat) : ∀ s : State, s.halted = true →
    (∀ k, k < n → ({ s with boundary := s.boundary + k } : State).resetRequested = false) →
    (∀ k, k < n → ({ s with boundary := s.boundary + k } : State).interruptAccepted = false) →
    Sys2Proof.core.run n s = .next { s with boundary := s.boundary + n } := by
  induction n with
  | zero => intro s _ _ _; rfl
  | succ n ih =>
    intro s hhalted hreset haccepted
    have hstep : step s = .next s.tick := step_of_halted hhalted (hreset 0 n.succ_pos) (haccepted 0 n.succ_pos)
    have hshift (k : Nat) : s.tick.boundary + k = s.boundary + (k + 1) := by simp; omega
    have hrun := ih s.tick hhalted
      (fun k hk => by rw [hshift]; exact hreset (k + 1) (by omega))
      (fun k hk => by rw [hshift]; exact haccepted (k + 1) (by omega))
    rw [run_succ_of_next Sys2Proof.core hstep, hrun, hshift]
    rfl

/-- Settles O10: one halted step, then induction on the number of boundaries; IFF = 0 masks every request. -/
theorem haltedWithInterruptsOffStaysHalted : Obligations.HaltedWithInterruptsOffStaysHalted := by
  refine ⟨fun s => step_of_halted, fun n s hhalted hreset hmasked => run_of_halted n s hhalted hreset ?_⟩
  rcases hmasked with hiff | haccepted
  · exact fun k _ => interruptAccepted_of_iff_off hiff
  · exact haccepted

/-- Settles O9: the control bits are those State.reset names, and the default platform lists no region, no dead port and
no request. -/
theorem resetStateValues : Obligations.ResetStateValues := by
  refine ⟨rfl, rfl, rfl, rfl, rfl, fun a => ?_, fun port => ?_, fun k => ?_⟩
  · rfl
  · rfl
  · exact List.getD_nil

/-- Settles O25: empty memory is canonical, and the reset state is not halted. -/
theorem resetHasInv : Obligations.ResetHasInv :=
  ⟨State.reset_mem_wf, fun h => nomatch h.1⟩

end Sys2Proof.Machine
end

section
/-! SUPPORT. Which accesses an instruction performs (20_memory.md R61, R67; 60_exceptions.md R402): one relation between
an answer and the list of its accesses, one rule per shared operation, one lemma per shape of instruction, then one
theorem for exec; and what the relation says of memory, the platform and the ports. -/

namespace Sys2Proof.Machine

/-! ## What an access changes -/

/-- Two states agree on all that an access can read or change: memory, the platform and the port traffic. -/
structure SameBus (s t : State) : Prop where
  mem : t.mem = s.mem
  platform : t.platform = s.platform
  ioOut : t.ioOut = s.ioOut
  ioReads : t.ioReads = s.ioReads

theorem SameBus.refl (s : State) : SameBus s s := ⟨rfl, rfl, rfl, rfl⟩

theorem SameBus.trans {s t u : State} (hst : SameBus s t) (htu : SameBus t u) : SameBus s u :=
  ⟨htu.mem.trans hst.mem, htu.platform.trans hst.platform, htu.ioOut.trans hst.ioOut, htu.ioReads.trans hst.ioReads⟩

theorem SameBus.serves {s t : State} (h : SameBus s t) (x : Access) : t.serves x = s.serves x := by
  cases x <;> simp only [State.serves, State.canAccess, State.kindAt, State.canUsePort, h.platform]

/-- The state after the platform has served an access; `v` is the byte that a write carries. -/
def State.afterAccess (s : State) (v : Byte) : Access → State
  | .fetch _ | .memRead _ => s
  | .memWrite a => s.poke a v
  | .ioRead _ => { s with ioReads := s.ioReads + 1 }
  | .ioWrite port => { s with ioOut := s.ioOut ++ [(port, v)] }

theorem SameBus.poke {s t : State} (h : SameBus s t) (a : Word) (v : Byte) :
    SameBus (s.poke a v) (t.poke a v) where
  mem := by simp only [State.poke, State.kindAt, h.platform]; split <;> simp only [h.mem]
  platform := by simp [h.platform]
  ioOut := by simp [h.ioOut]
  ioReads := by simp [h.ioReads]

theorem SameBus.afterAccess {s t : State} (h : SameBus s t) (v : Byte) (x : Access) :
    SameBus (s.afterAccess v x) (t.afterAccess v x) := by
  cases x with
  | fetch _ | memRead _ => exact h
  | memWrite a => exact h.poke a v
  | ioRead _ => exact ⟨h.mem, h.platform, h.ioOut, congrArg (· + 1) h.ioReads⟩
  | ioWrite port => exact ⟨h.mem, h.platform, congrArg (· ++ [(port, v)]) h.ioOut, h.ioReads⟩

@[simp] theorem State.afterAccess_platform (s : State) (v : Byte) (x : Access) :
    (s.afterAccess v x).platform = s.platform := by
  cases x <;> simp [State.afterAccess]

theorem State.afterAccess_wf {s : State} (v : Byte) (x : Access) (h : s.mem.wf = true) :
    (s.afterAccess v x).mem.wf = true := by
  cases x with
  | memWrite a => exact State.poke_wf a v h
  | fetch _ | memRead _ | ioRead _ | ioWrite _ => exact h

/-- An access leaves every byte but the one it writes. -/
theorem State.peek_afterAccess (s : State) (v : Byte) {x : Access} {a : Word} (h : x ≠ .memWrite a) :
    (s.afterAccess v x).peek a = s.peek a := by
  cases x with
  | memWrite b =>
    have hne : a ≠ b := fun e => h (e ▸ rfl)
    simp [State.afterAccess, State.peek_poke, hne]
  | fetch _ | memRead _ | ioRead _ | ioWrite _ => rfl

/-- An access leaves every byte outside RAM (20_memory.md R51). -/
theorem State.peek_afterAccess_of_not_ram (s : State) (v : Byte) (x : Access) {a : Word} (h : s.kindAt a ≠ .ram) :
    (s.afterAccess v x).peek a = s.peek a := by
  cases x with
  | memWrite b =>
    have hne : ¬(a = b ∧ s.kindAt b = .ram) := fun e => h (e.1 ▸ e.2)
    simp [State.afterAccess, State.peek_poke, hne]
  | fetch _ | memRead _ | ioRead _ | ioWrite _ => rfl

/-! ## The accesses of an answer -/

/-- The answer `r` comes of performing, from `s`, the listed accesses in order: it is a next state if the platform
serves them all, and the platform fault at the first it does not serve, with what the earlier ones wrote
(60_exceptions.md R402). Between the accesses, what is no concern of the platform may change. -/
inductive Performs : Result → State → List Access → Prop
  | done {s t : State} (hbus : SameBus s t) : Performs (.next t) s []
  | access {r : Result} {s u : State} {x : Access} {rest : List Access} (v : Byte) (hserved : s.serves x = true)
      (hbus : SameBus (s.afterAccess v x) u) (hrest : Performs r u rest) : Performs r s (x :: rest)
  | stop {s : State} {x : Access} (rest : List Access) (hunserved : s.serves x = false) :
      Performs (.fault (.platformFault x s.mem)) s (x :: rest)

/-- Changes of registers, flags and control bits before the first access are no concern of the platform. -/
theorem Performs.after {r : Result} {s t : State} {acc : List Access} (h : Performs r t acc) (hbus : SameBus s t) :
    Performs r s acc := by
  cases h with
  | done htu => exact .done (hbus.trans htu)
  | access v hserved htu hrest =>
    exact .access v (hbus.serves _ ▸ hserved) ((hbus.afterAccess v _).trans htu) hrest
  | stop rest hunserved => rw [hbus.mem]; exact .stop rest (hbus.serves _ ▸ hunserved)

/-- The memory an answer leaves: that of the next state, or the one the platform fault records. -/
def memoryLeft : Result → Option Memory
  | .next t => some t.mem
  | .fault (.platformFault _ m) => some m
  | .fault (.undefinedOpcode _ _) | .refused _ => none

section consequences

variable {r : Result} {s t : State} {acc : List Access} {m : Memory} {a : Word}

theorem Performs.platform_kept (h : Performs (.next t) s acc) : t.platform = s.platform := by
  generalize hr : (Host.Outcome.next t : Result) = r at h
  induction h with
  | done hbus => cases hr; exact hbus.platform
  | access v _ hbus _ ih => rw [ih hr, hbus.platform, State.afterAccess_platform]
  | stop => cases hr

/-- The memory left in the end is canonical if the memory before was, whether the answer is a next state or a fault. -/
theorem Performs.memoryLeft_wf (h : Performs r s acc) (hm : memoryLeft r = some m) (hwf : s.mem.wf = true) :
    m.wf = true := by
  induction h with
  | done hbus => cases hm; rw [hbus.mem]; exact hwf
  | access v _ hbus _ ih => exact ih hm (by rw [hbus.mem]; exact State.afterAccess_wf v _ hwf)
  | stop => cases hm; exact hwf

/-- Every byte the accesses do not write reads as before, in the memory of the next state and of the fault. -/
theorem Performs.memoryLeft_kept (h : Performs r s acc) (hm : memoryLeft r = some m)
    (ha : Access.memWrite a ∉ acc) : m.read a = s.peek a := by
  induction h with
  | done hbus => cases hm; rw [hbus.mem]; rfl
  | access v _ hbus _ ih =>
    simp only [List.mem_cons, not_or] at ha
    obtain ⟨hx, hrest⟩ := ha
    rw [ih hm hrest, State.peek, hbus.mem]
    exact State.peek_afterAccess _ v (Ne.symm hx)
  | stop => cases hm; rfl

/-- Every byte outside RAM reads as before, in the memory of the next state and of the fault. -/
theorem Performs.memoryLeft_rom (h : Performs r s acc) (hm : memoryLeft r = some m) (ha : s.kindAt a ≠ .ram) :
    m.read a = s.peek a := by
  induction h with
  | done hbus => cases hm; rw [hbus.mem]; rfl
  | @access r s u x rest v _ hbus _ ih =>
    have hkind : u.kindAt a = s.kindAt a := by
      simp only [State.kindAt, hbus.platform, State.afterAccess_platform]
    rw [ih hm (hkind ▸ ha), State.peek, hbus.mem]
    exact State.peek_afterAccess_of_not_ram _ v _ ha
  | stop => cases hm; rfl

/-- The port an access reads. -/
def Access.readPort? : Access → Option Byte
  | .ioRead port => some port
  | .fetch _ | .memRead _ | .memWrite _ | .ioWrite _ => none

/-- The port an access writes. -/
def Access.writePort? : Access → Option Byte
  | .ioWrite port => some port
  | .fetch _ | .memRead _ | .memWrite _ | .ioRead _ => none

/-- Each port read among the accesses is counted once. -/
theorem Performs.ioReads_eq (h : Performs (.next t) s acc) :
    t.ioReads = s.ioReads + (acc.filterMap Access.readPort?).length := by
  generalize hr : (Host.Outcome.next t : Result) = r at h
  induction h with
  | done hbus => cases hr; exact hbus.ioReads
  | @access r s u x rest v _ hbus _ ih =>
    rw [ih hr, hbus.ioReads]
    cases x with
    | ioRead port => simp [State.afterAccess, Access.readPort?]; omega
    | fetch _ | memRead _ | memWrite _ | ioWrite _ =>
      simp [State.afterAccess, Access.readPort?, List.filterMap_cons]
  | stop => cases hr

/-- Each port write among the accesses appends one pair to the output trace. -/
theorem Performs.ioOut_eq (h : Performs (.next t) s acc) :
    ∃ pairs, t.ioOut = s.ioOut ++ pairs ∧ pairs.map Prod.fst = acc.filterMap Access.writePort? := by
  generalize hr : (Host.Outcome.next t : Result) = r at h
  induction h with
  | done hbus => cases hr; exact ⟨[], by simp [hbus.ioOut], rfl⟩
  | @access r s u x rest v _ hbus _ ih =>
    obtain ⟨pairs, hout, hports⟩ := ih hr
    rw [hbus.ioOut] at hout
    cases x with
    | ioWrite port =>
      exact ⟨(port, v) :: pairs, by simp [hout, State.afterAccess], by simp [hports, Access.writePort?]⟩
    | fetch _ | memRead _ | ioRead _ | memWrite _ =>
      exact ⟨pairs, by simp [hout, State.afterAccess], by simp [hports, Access.writePort?, List.filterMap_cons]⟩
  | stop => cases hr

end consequences

/-! ## The rules of the shared operations -/

section rules

variable {s : State} {rest : List Access}

theorem load_performs {a : Word} {k : Byte → Result} (hk : ∀ v, Performs (k v) s rest) :
    Performs (s.load a k) s (.memRead a :: rest) := by
  cases h : s.canAccess a with
  | true => rw [State.load_of_access h]; exact .access 0 h (.refl s) (hk _)
  | false => rw [State.load_of_no_access h]; exact .stop rest h

theorem store_performs {a : Word} {v : Byte} {k : State → Result} (hk : Performs (k (s.poke a v)) (s.poke a v) rest) :
    Performs (s.store a v k) s (.memWrite a :: rest) := by
  cases h : s.canAccess a with
  | true => rw [State.store_of_access h]; exact .access v h (.refl _) hk
  | false => rw [State.store_of_no_access h]; exact .stop rest h

theorem load16_performs {a : Word} {k : Word → Result} (hk : ∀ w, Performs (k w) s rest) :
    Performs (s.load16 a k) s (reads16 a ++ rest) :=
  load_performs fun _ => load_performs fun _ => hk _

theorem store16_performs {a w : Word} {k : State → Result} (hk : ∀ t, Performs (k t) t rest) :
    Performs (s.store16 a w k) s (writes16 a ++ rest) :=
  store_performs (store_performs (hk _))

theorem push_performs {w : Word} {k : State → Result} (hk : ∀ t, Performs (k t) t rest) :
    Performs (s.push w k) s (s.pushes ++ rest) := by
  simp only [State.push]
  refine .after (t := { s with sp := s.sp - 1 }) (store_performs ?_) ⟨rfl, rfl, rfl, rfl⟩
  have hsp : (({ s with sp := s.sp - 1 } : State).poke (s.sp - 1) (highByte w)).sp - 1 = s.sp - 2 := by
    rw [State.poke_sp]; exact pred_pred _
  rw [← hsp]
  exact .after (store_performs (hk _)) ⟨rfl, rfl, rfl, rfl⟩

theorem pop_performs {k : Word → State → Result} (hk : ∀ w t, Performs (k w t) t rest) :
    Performs (s.pop k) s (s.pops ++ rest) :=
  load_performs fun _ => .after (t := { s with sp := s.sp + 1 })
    (load_performs fun _ => .after (hk _ _) ⟨rfl, rfl, rfl, rfl⟩) ⟨rfl, rfl, rfl, rfl⟩

theorem input_performs {port : Byte} {k : Byte → State → Result} (hk : ∀ v t, Performs (k v t) t rest) :
    Performs (s.input port k) s (.ioRead port :: rest) := by
  unfold State.input
  split <;> rename_i h
  · exact .access 0 h (.refl _) (hk _ _)
  · exact .stop rest (Bool.not_eq_true _ ▸ h)

theorem output_performs {port v : Byte} {k : State → Result} (hk : ∀ t, Performs (k t) t rest) :
    Performs (s.output port v k) s (.ioWrite port :: rest) := by
  unfold State.output
  split <;> rename_i h
  · exact .access v h (.refl _) (hk _)
  · exact .stop rest (Bool.not_eq_true _ ▸ h)

theorem anyBit_performs {k : Bool → State → Result} (hk : ∀ b t, Performs (k b t) t rest) :
    Performs (s.anyBit k) s rest := (hk _ _).after ⟨rfl, rfl, rfl, rfl⟩

theorem readPlace_performs {p : Place} {k : Byte → Result} (hk : ∀ v, Performs (k v) s rest) :
    Performs (s.readPlace p k) s (s.readsOf p ++ rest) := by
  cases p with
  | reg r => exact hk _
  | mem m => exact load_performs hk

theorem writePlace_performs {p : Place} {v : Byte} {k : State → Result} (hk : ∀ t, Performs (k t) t rest) :
    Performs (s.writePlace p v k) s (s.writesOf p ++ rest) := by
  cases p with
  | reg r => exact (hk _).after ⟨by simp, by simp, by simp, by simp⟩
  | mem m => exact store_performs (hk _)

/-- The read of a source operand: none for an immediate. -/
def State.readsOfSource (s : State) : Source → List Access
  | .place p => s.readsOf p
  | .imm _ => []

theorem readSource_performs {src : Source} {k : Byte → Result} (hk : ∀ v, Performs (k v) s rest) :
    Performs (s.readSource src k) s (s.readsOfSource src ++ rest) := by
  cases src with
  | place p => exact readPlace_performs hk
  | imm n => exact hk _

end rules

/-! ## The shapes instructions share -/

section shapes

variable {s : State} {len : Word}

theorem finish_performs : Performs (s.finish len) s [] := .done ⟨rfl, rfl, rfl, rfl⟩

theorem jumpTo_performs {target : Word} : Performs (.next (s.jumpTo target)) s [] := .done ⟨rfl, rfl, rfl, rfl⟩

theorem moveByte_performs {dst : Place} {src : Source} :
    Performs (moveByte dst src len s) s (s.readsOfSource src ++ (s.writesOf dst ++ [])) :=
  readSource_performs fun _ => writePlace_performs fun _ => finish_performs

theorem combineA_performs {op : Byte → Byte → Flags → Byte × Flags} {src : Source} :
    Performs (combineA op src len s) s (s.readsOfSource src ++ []) :=
  readSource_performs fun _ => .done ⟨rfl, rfl, rfl, rfl⟩

theorem changeA_performs {op : Byte → Flags → Byte × Flags} : Performs (changeA op len s) s [] :=
  .done ⟨rfl, rfl, rfl, rfl⟩

theorem modifyByte_performs {op : Byte → Flags → Byte × Flags} {p : Place} :
    Performs (modifyByte op p len s) s (s.readsOf p ++ (s.writesOf p ++ [])) :=
  readPlace_performs fun _ => writePlace_performs fun _ => .done ⟨rfl, rfl, rfl, rfl⟩

theorem testBit_performs {b : BitIndex} {p : Place} : Performs (testBit b p len s) s (s.readsOf p ++ []) :=
  readPlace_performs fun _ => anyBit_performs fun _ _ => anyBit_performs fun _ _ => .done ⟨rfl, rfl, rfl, rfl⟩

theorem assign16_performs {dst : Reg16} {w : Word} : Performs (assign16 dst w len s) s [] :=
  .done ⟨by simp, by simp, by simp, by simp⟩

theorem loadReg16_performs {dst : Reg16} {nn : Word} :
    Performs (loadReg16 dst nn len s) s (reads16 nn ++ []) := load16_performs fun _ => assign16_performs

theorem storeReg16_performs {src : Reg16} {nn : Word} :
    Performs (storeReg16 nn src len s) s (writes16 nn ++ []) := store16_performs fun _ => finish_performs

theorem pushReg16_performs {src : Reg16} : Performs (pushReg16 src len s) s (s.pushes ++ []) :=
  push_performs fun _ => finish_performs

theorem popReg16_performs {dst : Reg16} : Performs (popReg16 dst len s) s (s.pops ++ []) :=
  pop_performs fun _ _ => assign16_performs

theorem addReg16_performs {dst src : Reg16} : Performs (addReg16 dst src len s) s [] :=
  .done ⟨by simp, by simp, by simp, by simp⟩

theorem callTo_performs {target : Word} : Performs (callTo target len s) s (s.pushes ++ []) :=
  push_performs fun _ => jumpTo_performs

theorem returnFromCall_performs : Performs s.returnFromCall s (s.pops ++ []) :=
  pop_performs fun _ _ => jumpTo_performs

theorem interruptEntry_performs : Performs s.interruptEntry s (s.pushes ++ []) :=
  .after (t := { s with halted := false, iff := false, inhibit := false })
    (push_performs fun _ => .done ⟨rfl, rfl, rfl, rfl⟩) ⟨rfl, rfl, rfl, rfl⟩

theorem rotateDigits_performs {op : Byte → Byte → Byte × Byte} :
    Performs (rotateDigits op s) s (s.readsOf (.mem .atHL) ++ (s.writesOf (.mem .atHL) ++ [])) :=
  readPlace_performs fun _ => writePlace_performs fun _ => .done ⟨rfl, rfl, rfl, rfl⟩

theorem exSPHL_performs : Performs (execExSPHL s) s (s.pops ++ [.memWrite (s.sp + 1), .memWrite s.sp]) :=
  load16_performs fun _ => store_performs (store_performs assign16_performs)

theorem pushPair_performs {qq : RegQQ} : Performs (execPushPair qq s) s s.pushes := by
  have hbus : SameBus s (s.qqDrawn qq) := by cases qq <;> exact ⟨rfl, rfl, rfl, rfl⟩
  have hpush : Performs ((s.qqDrawn qq).push (s.qqValue qq) fun u => u.finish 1) (s.qqDrawn qq)
      ((s.qqDrawn qq).pushes ++ []) := push_performs fun _ => finish_performs
  rw [execPushPair, State.readQQ_eq]
  simpa [State.pushes] using hpush.after hbus

theorem popPair_performs {qq : RegQQ} : Performs (execPopPair qq s) s (s.pops ++ []) :=
  pop_performs fun _ _ => .done ⟨by simp, by simp, by simp, by simp⟩

/-- A conditional instruction performs the accesses of the branch it takes. -/
theorem ite_performs {c : Prop} [Decidable c] {taken other : Result} {acc acc' : List Access}
    (htaken : Performs taken s acc) (hother : Performs other s acc') :
    Performs (if c then taken else other) s (if c then acc else acc') := by
  split
  · exact htaken
  · exact hother

end shapes

/-! ## All instructions -/

/-- Every instruction performs exactly its data accesses, in order, and answers accordingly. -/
theorem exec_performs (i : Instr) (s : State) : Performs (exec i s) s (dataAccesses i s) := by
  cases i with dsimp only [exec]
  | ldRegReg _ _ | ldRegImm _ _ | ldRegHL _ | ldRegIX _ _ | ldRegIY _ _ | ldHLReg _ | ldIXReg _ _ | ldIYReg _ _
  | ldHLImm _ | ldIXImm _ _ | ldIYImm _ _ | ldABC | ldADE | ldAMem _ | ldBCA | ldDEA | ldMemA _ =>
    exact moveByte_performs
  | ldPairImm _ _ | ldIXImm16 _ | ldIYImm16 _ | ldSPHL | ldSPIX | ldSPIY | incPair _ | incIX16 | incIY16
  | decPair _ | decIX16 | decIY16 => exact assign16_performs
  | ldHLMem _ | ldPairMem _ _ | ldIXMem _ | ldIYMem _ => exact loadReg16_performs
  | ldMemHL _ | ldMemPair _ _ | ldMemIX _ | ldMemIY _ => exact storeReg16_performs
  | exDEHL => exact .done ⟨rfl, rfl, rfl, rfl⟩
  | exSPHL => exact exSPHL_performs
  | pushPair _ => exact pushPair_performs
  | popPair _ => exact popPair_performs
  | pushIX | pushIY => exact pushReg16_performs
  | popIX | popIY => exact popReg16_performs
  | addAReg _ | addAImm _ | addAHL | addAIX _ | addAIY _ | adcAReg _ | adcAImm _ | adcAHL | adcAIX _ | adcAIY _
  | subAReg _ | subAImm _ | subAHL | subAIX _ | subAIY _ | sbcAReg _ | sbcAImm _ | sbcAHL | sbcAIX _ | sbcAIY _
  | cpAReg _ | cpAImm _ | cpAHL | cpAIX _ | cpAIY _ | andAReg _ | andAImm _ | andAHL | andAIX _ | andAIY _
  | orAReg _ | orAImm _ | orAHL | orAIX _ | orAIY _ | xorAReg _ | xorAImm _ | xorAHL | xorAIX _ | xorAIY _ =>
    exact combineA_performs
  | incReg _ | incHL | incIX _ | incIY _ | decReg _ | decHL | decIX _ | decIY _ | rlcReg _ | rlcHL | rlcIX _
  | rlcIY _ | rlReg _ | rlHL | rlIX _ | rlIY _ | rrcReg _ | rrcHL | rrcIX _ | rrcIY _ | rrReg _ | rrHL | rrIX _
  | rrIY _ | slaReg _ | slaHL | slaIX _ | slaIY _ | sraReg _ | sraHL | sraIX _ | sraIY _ | srlReg _ | srlHL
  | srlIX _ | srlIY _ | setReg _ _ | setHL _ | setIX _ _ | setIY _ _ | resReg _ _ | resHL _ | resIX _ _
  | resIY _ _ => exact modifyByte_performs
  | daa | cpl | neg | rlca | rla | rrca | rra => exact changeA_performs
  | addHLPair _ | addIXPair _ | addIYPair _ => exact addReg16_performs
  | adcHLPair _ | sbcHLPair _ => exact .done ⟨by simp, by simp, by simp, by simp⟩
  | ccf => exact anyBit_performs fun _ _ => .done ⟨rfl, rfl, rfl, rfl⟩
  | scf | halt | di | ei => exact .done ⟨rfl, rfl, rfl, rfl⟩
  | nop => exact finish_performs
  | jp _ | jpHL | jpIX | jpIY => exact jumpTo_performs
  | jpCond _ _ =>
    unfold execJpCond
    split
    · exact jumpTo_performs
    · exact finish_performs
  | call _ | rst _ => exact callTo_performs
  | callCond _ _ => exact ite_performs callTo_performs finish_performs
  | ret => exact returnFromCall_performs
  | retCond _ => exact ite_performs returnFromCall_performs finish_performs
  | rld | rrd => exact rotateDigits_performs
  | bitReg _ _ | bitHL _ | bitIX _ _ | bitIY _ _ => exact testBit_performs
  | inAImm _ => exact input_performs fun _ _ => .done ⟨rfl, rfl, rfl, rfl⟩
  | inRegC _ => exact input_performs fun _ _ => .done ⟨by simp, by simp, by simp, by simp⟩
  | outImmA _ | outCReg _ => exact output_performs fun _ => finish_performs

end Sys2Proof.Machine
end

section
/-! PROOF. The invariant, the memory frame and the port traffic of every instruction and every step
(20_memory.md R51, R61, R67; 60_exceptions.md R402, R418, R420). -/

namespace Sys2Proof.Machine

/-! ## The memory and the ports of an instruction -/

theorem mem_storeAddresses {i : Instr} {s : State} {a : Word} :
    a ∈ storeAddresses i s ↔ Access.memWrite a ∈ dataAccesses i s := by
  constructor
  · intro h
    obtain ⟨x, hx, hstore⟩ := List.mem_filterMap.1 h
    cases x with
    | memWrite b => cases hstore; exact hx
    | fetch _ | memRead _ | ioRead _ | ioWrite _ => cases hstore
  · exact fun h => List.mem_filterMap.2 ⟨_, h, rfl⟩

theorem portReads_eq (i : Instr) (s : State) :
    portReads i s = (dataAccesses i s).filterMap Access.readPort? := rfl

theorem portWrites_eq (i : Instr) (s : State) :
    portWrites i s = (dataAccesses i s).filterMap Access.writePort? := rfl

/-- Settles O19: the accesses of an instruction leave every byte they do not write. -/
theorem memoryKeptUnlessStored : Obligations.MemoryKeptUnlessStored := by
  intro i s t h a ha
  have hperforms : Performs (.next t) s (dataAccesses i s) := h ▸ exec_performs i s
  exact hperforms.memoryLeft_kept rfl (mt mem_storeAddresses.2 ha)

/-- Settles O21: the accesses of an instruction count its port reads and record its port writes. -/
theorem portTraffic : Obligations.PortTraffic := by
  intro i s t h
  have hperforms : Performs (.next t) s (dataAccesses i s) := h ▸ exec_performs i s
  rw [portReads_eq, portWrites_eq]
  exact ⟨hperforms.ioReads_eq, hperforms.ioOut_eq⟩

/-! ## What a step does -/

/-- A fetch that fails is the undefined opcode, or the platform fault of a byte it could not read, with memory as
before (60_exceptions.md R401, R402). -/
theorem State.fetchFrom_error {s : State} {fault : Fault} (fuel : Nat) {bytes : List Byte}
    (h : s.fetchFrom bytes fuel = .error fault) :
    (∃ seen, fault = .undefinedOpcode s.pc seen) ∨
    ∃ a, s.canAccess a = false ∧ fault = .platformFault (.fetch a) s.mem := by
  induction fuel generalizing bytes with
  | zero =>
    unfold State.fetchFrom at h
    split at h
    · cases h
    · cases h; exact .inl ⟨_, rfl⟩
    · cases h; exact .inl ⟨_, rfl⟩
  | succ fuel ih =>
    unfold State.fetchFrom at h
    split at h
    · cases h
    · cases h; exact .inl ⟨_, rfl⟩
    · dsimp only at h
      split at h
      · exact ih h
      · rename_i haccess
        cases h
        exact .inr ⟨_, Bool.not_eq_true _ ▸ haccess, rfl⟩

/-- The branches of a step (60_exceptions.md R420): reset, interrupt entry, a halted pass, an instruction that the fetch
delivers, and the two faults of a fetch that delivers none. -/
theorem step_cases (s : State) :
    step s = .next s.tick.applyReset ∨ step s = s.tick.interruptEntry ∨ step s = .next s.tick ∨
    (s.halted = false ∧ ∃ i, step s = exec i s.tick) ∨
    (∃ pc bytes, step s = .fault (.undefinedOpcode pc bytes)) ∨
    ∃ a, s.tick.canAccess a = false ∧ step s = .fault (.platformFault (.fetch a) s.tick.mem) := by
  unfold step
  split
  · exact .inl rfl
  split
  · exact .inr (.inl rfl)
  split
  · exact .inr (.inr (.inl rfl))
  rename_i hrunning
  split
  · rename_i fault hfetch
    rcases State.fetchFrom_error _ hfetch with ⟨seen, rfl⟩ | ⟨a, haccess, rfl⟩
    · exact .inr (.inr (.inr (.inr (.inl ⟨_, _, rfl⟩))))
    · exact .inr (.inr (.inr (.inr (.inr ⟨a, haccess, rfl⟩))))
  · exact .inr (.inr (.inr (.inl ⟨Bool.not_eq_true _ ▸ hrunning, _, rfl⟩)))

/-- A step that does not end in the undefined opcode performs some list of accesses: those of the interrupt entry, of the
instruction, of the fetch that failed, or none. -/
theorem step_performs (s : State) :
    (∃ pc bytes, step s = .fault (.undefinedOpcode pc bytes)) ∨ ∃ acc, Performs (step s) s acc := by
  have htick : SameBus s s.tick := ⟨rfl, rfl, rfl, rfl⟩
  rcases step_cases s with h | h | h | ⟨-, i, h⟩ | h | ⟨a, haccess, h⟩
  · exact .inr ⟨[], h ▸ .done ⟨rfl, rfl, rfl, rfl⟩⟩
  · exact .inr ⟨_, h ▸ interruptEntry_performs.after htick⟩
  · exact .inr ⟨[], h ▸ .done htick⟩
  · exact .inr ⟨_, h ▸ (exec_performs i s.tick).after htick⟩
  · exact .inl h
  · exact .inr ⟨[.fetch a], h ▸ (Performs.stop (s := s.tick) (x := .fetch a) [] haccess).after htick⟩

/-! ## The invariant -/

/-- An instruction, which a halted processor never runs, does not end halted in the shadow of DI or EI: HALT clears
the shadow, and DI and EI do not halt (60_exceptions.md R418). -/
theorem exec_not_halted_in_shadow {i : Instr} {s t : State} (hrunning : s.halted = false) (h : exec i s = .next t) :
    ¬(t.halted = true ∧ t.inhibit = true) := by
  rcases exec_cases h with ⟨-, rfl⟩ | ⟨-, rfl⟩ | ⟨-, rfl⟩ | ⟨-, -, -, hframe⟩
  · simp [hrunning]
  · simp [hrunning]
  · simp
  · simp [hframe.inhibit_cleared]

/-- No step ends halted in the shadow of DI or EI if it did not begin so. -/
theorem step_not_halted_in_shadow {s t : State} (hs : ¬(s.halted = true ∧ s.inhibit = true)) (h : step s = .next t) :
    ¬(t.halted = true ∧ t.inhibit = true) := by
  rcases step_cases s with hstep | hstep | hstep | ⟨hrunning, i, hstep⟩ | ⟨pc, bytes, hstep⟩ | ⟨a, -, hstep⟩
  all_goals rw [hstep] at h
  · rw [next_eq_next.1 h]; simp
  · obtain ⟨-, -, rfl⟩ := interruptEntry_next.1 h; simp
  · rw [next_eq_next.1 h]; exact hs
  · exact exec_not_halted_in_shadow (s := s.tick) hrunning h
  · cases h
  · cases h

/-- The memory a step leaves is canonical if the memory before was. -/
theorem step_memoryLeft_wf {s : State} {m : Memory} (hm : memoryLeft (step s) = some m) (hwf : s.mem.wf = true) :
    m.wf = true := by
  rcases step_performs s with ⟨pc, bytes, h⟩ | ⟨acc, h⟩
  · rw [h] at hm; cases hm
  · exact h.memoryLeft_wf hm hwf

/-- Settles O24: accesses keep memory canonical, and no branch of the step halts in the shadow. -/
theorem stepKeepsInv : Obligations.StepKeepsInv := by
  intro s ⟨hwf, hshadow⟩
  refine ⟨fun t h => ⟨?_, step_not_halted_in_shadow hshadow h⟩, fun x m h => ?_⟩
  · exact step_memoryLeft_wf (by rw [h]; rfl) hwf
  · exact step_memoryLeft_wf (by rw [h]; rfl) hwf

/-- Settles O20: whatever a step performs, it leaves the platform and the bytes outside RAM. -/
theorem romAndPlatformNeverChange : Obligations.RomAndPlatformNeverChange := by
  intro s t h
  rcases step_performs s with ⟨pc, bytes, hstep⟩ | ⟨acc, hperforms⟩
  · rw [h] at hstep; cases hstep
  · rw [h] at hperforms
    exact ⟨hperforms.platform_kept, fun a ha => hperforms.memoryLeft_rom rfl ha⟩

end Sys2Proof.Machine
end

section
/-! PROOF. The canonical form of memory (20_memory.md R50, R51). -/

namespace Sys2Proof.Machine

/-- Below its lowest entry a memory reads as if nothing were listed. -/
theorem Memory.read_below {m : Memory} {low : Nat} {a : Word} (h : m.wfAbove low = true) (ha : a.toNat < low) :
    m.read a = Config.powerUpByte := by
  induction m generalizing low with
  | nil => rfl
  | cons cell rest ih =>
    obtain ⟨hlow, -, -, hrest⟩ := (Memory.wfAbove_cons ..).1 h
    rw [Memory.read_cons, if_neg (by omega)]
    exact ih hrest (by omega)

/-- An entry is read back, and it differs from what an unlisted byte reads as. -/
theorem Memory.read_first {low : Nat} {cell : Host.Cell} {m : Memory} (h : Memory.wfAbove low (cell :: m) = true) :
    (BitVec.ofNat 16 cell.1).toNat = cell.1 ∧ Memory.read (cell :: m) (BitVec.ofNat 16 cell.1) = cell.2 ∧
      cell.2 ≠ Config.powerUpByte := by
  obtain ⟨-, hbound, hlisted, -⟩ := (Memory.wfAbove_cons ..).1 h
  have haddr : (BitVec.ofNat 16 cell.1).toNat = cell.1 := by simp; omega
  exact ⟨haddr, by rw [Memory.read_cons, haddr, if_pos rfl], hlisted⟩

/-- Of two canonical memories that read alike, neither lists an address below the lowest of the other. -/
theorem Memory.not_lower_entry {low : Nat} {cell : Host.Cell} {m m' : Memory}
    (h : Memory.wfAbove low (cell :: m) = true) (h' : m'.wfAbove (cell.1 + 1) = true)
    (hread : ∀ a, Memory.read (cell :: m) a = m'.read a) : False := by
  obtain ⟨haddr, hfirst, hlisted⟩ := Memory.read_first h
  exact hlisted (by rw [← hfirst, hread, Memory.read_below h' (by omega)])

/-- Two canonical memories that read alike agree entry by entry. -/
theorem Memory.eq_of_read_eq {m m' : Memory} {low low' : Nat} (h : m.wfAbove low = true)
    (h' : m'.wfAbove low' = true) (hread : ∀ a, m.read a = m'.read a) : m = m' := by
  induction m generalizing m' low low' with
  | nil =>
    cases m' with
    | nil => rfl
    | cons cell' rest' => exact (Memory.not_lower_entry h' rfl fun a => (hread a).symm).elim
  | cons cell rest ih =>
    cases m' with
    | nil => exact (Memory.not_lower_entry h rfl hread).elim
    | cons cell' rest' =>
      obtain ⟨-, hbound, hlisted, hrest⟩ := (Memory.wfAbove_cons ..).1 h
      obtain ⟨-, hbound', hlisted', hrest'⟩ := (Memory.wfAbove_cons ..).1 h'
      have hkey : cell.1 = cell'.1 := by
        rcases Nat.lt_trichotomy cell.1 cell'.1 with hlt | heq | hgt
        · exact (Memory.not_lower_entry h ((Memory.wfAbove_cons ..).2 ⟨hlt, hbound', hlisted', hrest'⟩) hread).elim
        · exact heq
        · exact (Memory.not_lower_entry h' ((Memory.wfAbove_cons ..).2 ⟨hgt, hbound, hlisted, hrest⟩)
            fun a => (hread a).symm).elim
      have hvalue : cell.2 = cell'.2 := by
        obtain ⟨-, hfirst, -⟩ := Memory.read_first h
        obtain ⟨-, hfirst', -⟩ := Memory.read_first h'
        rw [← hfirst, ← hfirst', hkey, hread]
      have htail (a : Word) : Memory.read rest a = Memory.read rest' a := by
        have ha := hread a
        rw [Memory.read_cons, Memory.read_cons, ← hkey] at ha
        split at ha
        · rename_i heq
          rw [Memory.read_below hrest (by omega), Memory.read_below hrest' (by omega)]
        · exact ha
      rw [Prod.ext hkey hvalue, ih hrest hrest' htail]

/-- Settles O27: equal entries, one after the other from the lowest address up. -/
theorem memoriesReadingAlikeAreEqual : Obligations.MemoriesReadingAlikeAreEqual :=
  fun _ _ h h' hread => Memory.eq_of_read_eq h h' hread

end Sys2Proof.Machine
end

section
/-! PROOF. Input and output (49_io.md R360 to R364). -/

namespace Sys2Proof.Machine

/-! ## The flags of a byte, in the words of the statements -/

theorem bit7_eq_decide_neg (v : Byte) : bit7 v = decide (v.toInt < 0) := by
  rw [← BitVec.msb_eq_toInt, BitVec.msb_eq_getLsbD_last, bit7]

theorem parity8_eq_countP (v : Byte) :
    parity8 v = (((List.range 8).countP fun k => v.getLsbD k) % 2 == 0) := by
  have hrange : List.range 8 = [0, 1, 2, 3, 4, 5, 6, 7] := rfl
  have hcount : ((List.range 8).countP fun k => v.getLsbD k) = oneBits v := by
    rw [hrange]
    simp only [List.countP_cons, List.countP_nil, oneBits, bitVal, Nat.zero_add]
    omega
  rw [hcount, parity8]

theorem byteFlags_eq (v : Byte) (f : Flags) :
    byteFlags v f =
      { sf := decide (v.toInt < 0), zf := decide (v = 0), hf := false
        pf := ((List.range 8).countP fun k => v.getLsbD k) % 2 == 0, nf := false, cf := f.cf } := by
  rw [byteFlags, bit7_eq_decide_neg, parity8_eq_countP]
  rfl

/-! ## A register and the flags written at the end of an instruction -/

theorem answersReg8_finish (s : State) (r : Reg8) (v : Byte) (f : Flags) (len : Word) :
    s.AnswersReg8 r v f len (((s.setReg8 r v).setFlags f).finish len) := by
  refine ⟨_, rfl, State.setReg8_reg8_same s r v, fun q hq => State.setReg8_reg8_other s v hq, ?_⟩
  cases r <;> rfl

/-! ## The four instructions -/

theorem State.input_of_port {s : State} {port : Byte} (h : s.canUsePort port = true) (k : Byte → State → Result) :
    s.input port k = k (s.portValue port) { s with ioReads := s.ioReads + 1 } := by simp [State.input, h]

theorem State.output_of_port {s : State} {port : Byte} (h : s.canUsePort port = true) (v : Byte)
    (k : State → Result) : s.output port v k = k { s with ioOut := s.ioOut ++ [(port, v)] } := by
  simp [State.output, h]

theorem exec_inAImm (n : Byte) (s : State) :
    exec (.inAImm n) s = s.input n fun v s => (s.setA v).finish 2 := rfl

theorem exec_inRegC (r : Reg8) (s : State) :
    exec (.inRegC r) s = s.input s.regs.c fun v s => ((s.setReg8 r v).setFlags (byteFlags v s.flags)).finish 2 := rfl

theorem exec_outImmA (n : Byte) (s : State) :
    exec (.outImmA n) s = s.output n s.regs.a fun s => s.finish 2 := rfl

theorem exec_outCReg (r : Reg8) (s : State) :
    exec (.outCReg r) s = s.output s.regs.c (s.reg8 r) fun s => s.finish 2 := rfl

/-- A read that the first listed answer names returns its value (20_memory.md R61). -/
theorem State.portValue_of_first {s : State} {port v : Byte} {more : List IoAnswer}
    (h : s.platform.ioIn = { port := port, index := s.ioReads, value := v } :: more) : s.portValue port = v := by
  simp [State.portValue, h]

/-- Settles O59: one counted read, then a register and the flags of an ordinary end. -/
theorem inputResult : Obligations.InputResult := by
  intro s r n
  refine ⟨fun hport => ?_, fun hport => ?_, fun v more => State.portValue_of_first⟩
  · rw [exec_inAImm, State.input_of_port hport]
    exact answersReg8_finish { s with ioReads := s.ioReads + 1 } .a (s.portValue n) s.flags 2
  · rw [exec_inRegC, State.input_of_port hport]
    dsimp only
    rw [← byteFlags_eq]
    exact answersReg8_finish { s with ioReads := s.ioReads + 1 } r (s.portValue s.regs.c)
      (byteFlags (s.portValue s.regs.c) s.flags) 2

/-- Settles O60: one pair at the end of the trace, then an ordinary end. -/
theorem outputResult : Obligations.OutputResult := by
  intro s r n e he
  simp only [List.mem_cons, List.not_mem_nil, or_false] at he
  rcases he with rfl | rfl
  · intro hport
    rw [exec_outImmA, State.output_of_port hport]
    rfl
  · intro hport
    rw [exec_outCReg, State.output_of_port hport]
    rfl

end Sys2Proof.Machine
end

section
/-! PROOF. Codes, operation bytes and the two index maps, and that the decoder reads back the encoding of every
well-formed instruction (30_encoding.md R81 to R95). -/

namespace Sys2Proof

open Machine

/-! ## Codes and operation bytes -/

/-- A 2-bit code is one of four. -/
theorem code2_cases {P : BitVec 2 → Prop} (c0 : P 0b00#2) (c1 : P 0b01#2) (c2 : P 0b10#2) (c3 : P 0b11#2)
    (c : BitVec 2) : P c := by
  have hone : c = 0b00#2 ∨ c = 0b01#2 ∨ c = 0b10#2 ∨ c = 0b11#2 := by revert c; decide
  rcases hone with rfl | rfl | rfl | rfl <;> assumption

/-- A 3-bit code is one of eight. -/
theorem code3_cases {P : BitVec 3 → Prop} (c0 : P 0b000#3) (c1 : P 0b001#3) (c2 : P 0b010#3) (c3 : P 0b011#3)
    (c4 : P 0b100#3) (c5 : P 0b101#3) (c6 : P 0b110#3) (c7 : P 0b111#3) (c : BitVec 3) : P c := by
  have hone : c = 0b000#3 ∨ c = 0b001#3 ∨ c = 0b010#3 ∨ c = 0b011#3 ∨ c = 0b100#3 ∨ c = 0b101#3 ∨
      c = 0b110#3 ∨ c = 0b111#3 := by revert c; decide
  rcases hone with rfl | rfl | rfl | rfl | rfl | rfl | rfl | rfl <;> assumption

@[simp] theorem Reg8.ofCode_code (r : Reg8) : Reg8.ofCode r.code = some r := by cases r <;> rfl

@[simp] theorem Reg8.ofCode_memory : Reg8.ofCode 0b110#3 = none := rfl

@[simp] theorem Reg8.code_ne_memory (r : Reg8) : r.code ≠ 0b110#3 := by cases r <;> decide

/-- A 3-bit operand code names a register or is 110, the byte in memory (30_encoding.md R82). -/
theorem Reg8.operand_cases {P : BitVec 3 → Prop} (reg : ∀ r : Reg8, P r.code) (memory : P 0b110#3) (c : BitVec 3) :
    P c := by
  cases c using code3_cases with
  | c0 => exact reg .b
  | c1 => exact reg .c
  | c2 => exact reg .d
  | c3 => exact reg .e
  | c4 => exact reg .h
  | c5 => exact reg .l
  | c6 => exact memory
  | c7 => exact reg .a

/-- Every byte is an operation byte of some groups (30_encoding.md R81). -/
theorem exists_opByte (op : Byte) : ∃ x y z, op = opByte x y z := ⟨_, _, _, (opByte_groups op).symm⟩

/-- The operation byte that selects the index register (30_encoding.md R90). -/
def Index.selector : Index → Byte
  | .ix => 0xDD
  | .iy => 0xFD

theorem decode_selector (x : Index) (rest : List Byte) : decode (x.selector :: rest) = decodeAfterIndex x rest := by
  cases x <;> rfl

theorem Index.eq_selector {first : Byte} (h : first ∈ ([0xDD, 0xFD] : List Byte)) :
    ∃ x : Index, first = x.selector := by
  simp only [List.mem_cons, List.not_mem_nil, or_false] at h
  rcases h with rfl | rfl
  · exact ⟨.ix, rfl⟩
  · exact ⟨.iy, rfl⟩

theorem decodeAfterIndex_of_ne_CB (x : Index) {op : Byte} (rest : List Byte) (hop : op ≠ 0xCB) :
    decodeAfterIndex x (op :: rest) = decodeIndexed x op rest := by
  unfold decodeAfterIndex
  split
  next heq => cases heq; exact absurd rfl hop
  next heq => cases heq; exact absurd rfl hop
  next heq => cases heq; exact absurd rfl hop
  next heq => cases heq; rfl
  next heq => cases heq

/-! ## Decoding an encoding -/

/-- The two bytes of nn are put together again (30_encoding.md R88). -/
theorem immediateWord_lowByte_highByte (f : Word → Instr) (nn : Word) (rest : List Byte) :
    immediateWord f (lowByte nn :: highByte nn :: rest) = .ok (f nn, rest) := by
  rw [immediateWord, word_highByte_lowByte]

/-- An RST whose address is one of the eight is read back (30_encoding.md R86). -/
theorem decode_encode_rst {p : Word} (hp : (Instr.rst p).WellFormed) (rest : List Byte) :
    decode (encode (.rst p) ++ rest) = .ok (.rst p, rest) := by
  simp only [Instr.WellFormed, Instr.isWellFormed, restartAddresses, List.contains_iff_mem, List.mem_cons,
    List.not_mem_nil, or_false] at hp
  rcases hp with rfl | rfl | rfl | rfl | rfl | rfl | rfl | rfl <;> rfl

/-- Settles O1: row by row. Once the operands that share the operation byte are given, the decoder runs on it; n and d
follow as they are, and nn is put together from its bytes. -/
theorem decodeAfterEncode : Obligations.DecodeAfterEncode := by
  intro i rest hwf
  cases i with
  | rst p => exact decode_encode_rst hwf rest
  | ldAMem nn | ldMemA nn | ldHLMem nn | ldMemHL nn | ldIXImm16 nn | ldIYImm16 nn | ldIXMem nn | ldIYMem nn
  | ldMemIX nn | ldMemIY nn | jp nn | call nn => exact immediateWord_lowByte_highByte _ nn rest
  | ldPairImm dd nn | ldPairMem dd nn => cases dd <;> exact immediateWord_lowByte_highByte _ nn rest
  | ldMemPair nn dd => cases dd <;> exact immediateWord_lowByte_highByte (.ldMemPair · _) nn rest
  | jpCond cc nn | callCond cc nn => cases cc <;> exact immediateWord_lowByte_highByte _ nn rest
  | retCond cc => cases cc <;> rfl
  | pushPair p | popPair p | addHLPair p | adcHLPair p | sbcHLPair p | addIXPair p | addIYPair p | incPair p
  | decPair p => cases p <;> rfl
  | ldRegReg r r' => cases r <;> cases r' <;> rfl
  | ldRegImm r _ | ldRegHL r | ldRegIX r _ | ldRegIY r _ | ldHLReg r | ldIXReg _ r | ldIYReg _ r | addAReg r
  | adcAReg r | subAReg r | sbcAReg r | cpAReg r | andAReg r | orAReg r | xorAReg r | incReg r | decReg r
  | rlcReg r | rlReg r | rrcReg r | rrReg r | slaReg r | sraReg r | srlReg r | inRegC r | outCReg r =>
    cases r <;> rfl
  | bitReg b r | setReg b r | resReg b r => cases b using code3_cases <;> cases r <;> rfl
  | bitHL b | setHL b | resHL b | bitIX b _ | bitIY b _ | setIX b _ | setIY b _ | resIX b _ | resIY b _ =>
    cases b using code3_cases <;> rfl
  | _ => rfl

/-- Settles O3: each word is the encoding of its instruction. -/
theorem knownWordsDecode : Obligations.KnownWordsDecode :=
  ⟨decodeAfterEncode (.ldRegReg .a .b) [] rfl, decodeAfterEncode (.ldRegIX .c 0x80) [] rfl,
    decodeAfterEncode (.ldMemPair 0x2000 .sp) [] rfl, decodeAfterEncode (.sbcAIY 0x05) [] rfl,
    decodeAfterEncode (.addIXPair .sp) [] rfl, decodeAfterEncode .ei [] rfl,
    decodeAfterEncode (.jpCond .z 0x1234) [] rfl, decodeAfterEncode (.rst 0x0038) [] rfl,
    decodeAfterEncode (.rrIY 0xFF) [] rfl, decodeAfterEncode (.bitIX 6 0x02) [] rfl,
    decodeAfterEncode (.inRegC .a) [] rfl⟩

end Sys2Proof
end

section
/-! PROOF. What decodes encodes to the bytes consumed (30_encoding.md R91, R97): one lemma per operand format, then one
per map of the decoder, which names the format of each operation byte. -/

namespace Sys2Proof

open Machine

/-! ## Operand formats -/

/-- The instruction is well-formed and `bytes` is its encoding. -/
structure Encodes (i : Instr) (bytes : List Byte) : Prop where
  wf : i.WellFormed
  encode_eq : encode i = bytes

/-- Whatever instruction was read, its encoding and the bytes left over are the bytes that were given. -/
def ReadsBack (bytes : List Byte) (d : Decoded) : Prop :=
  ∀ i rest, d = .ok (i, rest) → i.WellFormed ∧ encode i ++ rest = bytes

theorem readsBack_error (bytes : List Byte) (r : DecodeRefusal) : ReadsBack bytes (.error r) := by
  intro i rest h
  cases h

theorem readsBack_noOperand {i : Instr} {code : List Byte} (h : Encodes i code) (rest : List Byte) :
    ReadsBack (code ++ rest) (noOperand i rest) := by
  intro j rest' hj
  cases hj
  exact ⟨h.wf, by rw [h.encode_eq]⟩

theorem readsBack_noOperand? {row : Option Instr} {code : List Byte} (h : ∀ i, row = some i → Encodes i code)
    (rest : List Byte) : ReadsBack (code ++ rest) (noOperand? row rest) := by
  cases row with
  | none => exact readsBack_error _ _
  | some i => exact readsBack_noOperand (h i rfl) rest

theorem readsBack_oneByte {f : Byte → Instr} {code : List Byte} (h : ∀ n, Encodes (f n) (code ++ [n]))
    (rest : List Byte) : ReadsBack (code ++ rest) (oneByte f rest) := by
  cases rest with
  | nil => exact readsBack_error _ _
  | cons n rest =>
    rw [List.append_cons]
    exact readsBack_noOperand (h n) rest

theorem readsBack_twoBytes {f : Byte → Byte → Instr} {code : List Byte}
    (h : ∀ d n, Encodes (f d n) (code ++ [d] ++ [n])) (rest : List Byte) :
    ReadsBack (code ++ rest) (twoBytes f rest) := by
  match rest with
  | [] | [_] => exact readsBack_error _ _
  | d :: n :: rest =>
    rw [List.append_cons, List.append_cons]
    exact readsBack_noOperand (h d n) rest

theorem readsBack_immediateWord {f : Word → Instr} {code : List Byte}
    (h : ∀ nn, Encodes (f nn) (code ++ [lowByte nn] ++ [highByte nn])) (rest : List Byte) :
    ReadsBack (code ++ rest) (immediateWord f rest) := by
  match rest with
  | [] | [_] => exact readsBack_error _ _
  | lo :: hi :: rest =>
    have hword : Encodes (f (word hi lo)) (code ++ [lo] ++ [hi]) := by simpa using h (word hi lo)
    rw [List.append_cons, List.append_cons]
    exact readsBack_noOperand hword rest

/-! ## Groups of rows -/

theorem aluReg_encodes (y : BitVec 3) (r : Reg8) : Encodes (aluReg y r) [opByte 0b10 y r.code] := by
  cases y using code3_cases <;> exact ⟨rfl, rfl⟩

theorem aluHL_encodes (y : BitVec 3) : Encodes (aluHL y) [opByte 0b10 y 0b110] := by
  cases y using code3_cases <;> exact ⟨rfl, rfl⟩

theorem aluImm_encodes (y : BitVec 3) (n : Byte) : Encodes (aluImm y n) [opByte 0b11 y 0b110, n] := by
  cases y using code3_cases <;> exact ⟨rfl, rfl⟩

theorem shiftReg_encodes {y : BitVec 3} {r : Reg8} {i : Instr} (h : shiftReg y r = some i) :
    Encodes i [0xCB, opByte 0b00 y r.code] := by
  cases y using code3_cases <;> cases h <;> exact ⟨rfl, rfl⟩

theorem shiftHL_encodes {y : BitVec 3} {i : Instr} (h : shiftHL y = some i) :
    Encodes i [0xCB, opByte 0b00 y 0b110] := by
  cases y using code3_cases <;> cases h <;> exact ⟨rfl, rfl⟩

/-- The IX row and the IY row of a pair differ in the first byte alone (30_encoding.md R90). -/
theorem Index.pick_encodes {forIX forIY : Instr} {code : List Byte} (x : Index) (hix : Encodes forIX (0xDD :: code))
    (hiy : Encodes forIY (0xFD :: code)) : Encodes (x.pick forIX forIY) (x.selector :: code) := by
  cases x with
  | ix => exact hix
  | iy => exact hiy

theorem aluIndexed_encodes (x : Index) (y : BitVec 3) (d : Byte) :
    Encodes (aluIndexed x y d) [x.selector, opByte 0b10 y 0b110, d] := by
  cases y using code3_cases <;> exact x.pick_encodes ⟨rfl, rfl⟩ ⟨rfl, rfl⟩

theorem shiftIndexed_encodes {x : Index} {y : BitVec 3} {d : Byte} {i : Instr} (h : shiftIndexed x y d = some i) :
    Encodes i [x.selector, 0xCB, d, opByte 0b00 y 0b110] := by
  cases y using code3_cases <;> cases h <;> exact x.pick_encodes ⟨rfl, rfl⟩ ⟨rfl, rfl⟩

theorem rst_encodes (y : BitVec 3) : Encodes (.rst (restartAddress y)) [opByte 0b11 y 0b111] := by
  cases y using code3_cases <;> exact ⟨rfl, rfl⟩

/-! ## The CB map and the ED map -/

theorem decodeCB_readsBack (op : Byte) (rest : List Byte) : ReadsBack ([0xCB, op] ++ rest) (decodeCB op rest) := by
  obtain ⟨x, y, z, rfl⟩ := exists_opByte op
  rw [decodeCB, groupX_opByte, groupY_opByte, groupZ_opByte]
  cases z using Reg8.operand_cases with
  | reg r =>
    rw [Reg8.ofCode_code]
    cases x using code2_cases with
    | c0 => exact readsBack_noOperand? (fun _ => shiftReg_encodes) rest
    | c1 | c2 | c3 => exact readsBack_noOperand ⟨rfl, rfl⟩ rest
  | memory =>
    cases x using code2_cases with
    | c0 => exact readsBack_noOperand? (fun _ => shiftHL_encodes) rest
    | c1 | c2 | c3 => exact readsBack_noOperand ⟨rfl, rfl⟩ rest

theorem decodeED_readsBack (op : Byte) (rest : List Byte) : ReadsBack ([0xED, op] ++ rest) (decodeED op rest) := by
  obtain ⟨x, y, z, rfl⟩ := exists_opByte op
  cases x using code2_cases with
  | c0 | c2 | c3 =>
    rw [decodeED, groupX_opByte]
    exact readsBack_error _ _
  | c1 =>
    cases z using code3_cases with
    | c0 | c1 =>
      cases y using code3_cases
      case c6 => exact readsBack_error _ _
      all_goals exact readsBack_noOperand ⟨rfl, rfl⟩ rest
    | c2 => cases y using code3_cases <;> exact readsBack_noOperand ⟨rfl, rfl⟩ rest
    | c3 =>
      cases y using code3_cases
      case c0 | c2 | c4 | c6 =>
        exact readsBack_immediateWord (f := (.ldMemPair · _)) (fun _ => ⟨rfl, rfl⟩) rest
      case c1 | c3 | c5 | c7 => exact readsBack_immediateWord (fun _ => ⟨rfl, rfl⟩) rest
    | c4 =>
      cases y using code3_cases
      case c0 => exact readsBack_noOperand ⟨rfl, rfl⟩ rest
      all_goals exact readsBack_error _ _
    | c5 | c6 => cases y using code3_cases <;> exact readsBack_error _ _
    | c7 =>
      cases y using code3_cases
      case c4 | c5 => exact readsBack_noOperand ⟨rfl, rfl⟩ rest
      all_goals exact readsBack_error _ _

/-! ## The DD and FD maps -/

/-- Operation bytes `00 yyy zzz` after DD or FD. -/
theorem decodeIndexed_readsBack_quarter0 (x : Index) (y z : BitVec 3) (rest : List Byte) :
    ReadsBack ([x.selector, opByte 0b00 y z] ++ rest) (decodeIndexed x (opByte 0b00 y z) rest) := by
  cases z using code3_cases with
  | c0 | c7 => cases y using code3_cases <;> exact readsBack_error _ _
  | c1 =>
    cases y using code3_cases
    case c1 | c3 | c5 | c7 => exact readsBack_noOperand (x.pick_encodes ⟨rfl, rfl⟩ ⟨rfl, rfl⟩) rest
    case c4 =>
      exact readsBack_immediateWord (f := fun nn => x.pick (.ldIXImm16 nn) (.ldIYImm16 nn))
        (fun _ => x.pick_encodes ⟨rfl, rfl⟩ ⟨rfl, rfl⟩) rest
    all_goals exact readsBack_error _ _
  | c2 =>
    cases y using code3_cases
    case c4 =>
      exact readsBack_immediateWord (f := fun nn => x.pick (.ldMemIX nn) (.ldMemIY nn))
        (fun _ => x.pick_encodes ⟨rfl, rfl⟩ ⟨rfl, rfl⟩) rest
    case c5 =>
      exact readsBack_immediateWord (f := fun nn => x.pick (.ldIXMem nn) (.ldIYMem nn))
        (fun _ => x.pick_encodes ⟨rfl, rfl⟩ ⟨rfl, rfl⟩) rest
    all_goals exact readsBack_error _ _
  | c3 =>
    cases y using code3_cases
    case c4 | c5 => exact readsBack_noOperand (x.pick_encodes ⟨rfl, rfl⟩ ⟨rfl, rfl⟩) rest
    all_goals exact readsBack_error _ _
  | c4 | c5 =>
    cases y using code3_cases
    case c6 => exact readsBack_oneByte (fun _ => x.pick_encodes ⟨rfl, rfl⟩ ⟨rfl, rfl⟩) rest
    all_goals exact readsBack_error _ _
  | c6 =>
    cases y using code3_cases
    case c6 => exact readsBack_twoBytes (fun _ _ => x.pick_encodes ⟨rfl, rfl⟩ ⟨rfl, rfl⟩) rest
    all_goals exact readsBack_error _ _

/-- Operation bytes `01 yyy zzz` after DD or FD: one operand, and one alone, is the indexed byte. -/
theorem decodeIndexed_readsBack_quarter1 (x : Index) (y z : BitVec 3) (rest : List Byte) :
    ReadsBack ([x.selector, opByte 0b01 y z] ++ rest) (decodeIndexed x (opByte 0b01 y z) rest) := by
  rw [decodeIndexed, groupX_opByte, groupY_opByte, groupZ_opByte]
  cases y using Reg8.operand_cases with
  | reg r =>
    rw [Reg8.ofCode_code]
    cases z using Reg8.operand_cases with
    | reg r' => rw [Reg8.ofCode_code]; exact readsBack_error _ _
    | memory => exact readsBack_oneByte (fun _ => x.pick_encodes ⟨rfl, rfl⟩ ⟨rfl, rfl⟩) rest
  | memory =>
    cases z using Reg8.operand_cases with
    | reg r =>
      rw [Reg8.ofCode_code]
      exact readsBack_oneByte (fun _ => x.pick_encodes ⟨rfl, rfl⟩ ⟨rfl, rfl⟩) rest
    | memory => exact readsBack_error _ _

/-- Operation bytes `10 yyy zzz` after DD or FD: the accumulator group on the indexed byte. -/
theorem decodeIndexed_readsBack_quarter2 (x : Index) (y z : BitVec 3) (rest : List Byte) :
    ReadsBack ([x.selector, opByte 0b10 y z] ++ rest) (decodeIndexed x (opByte 0b10 y z) rest) := by
  rw [decodeIndexed, groupX_opByte, groupY_opByte, groupZ_opByte]
  cases z using code3_cases
  case c6 => exact readsBack_oneByte (aluIndexed_encodes x y) rest
  all_goals exact readsBack_error _ _

/-- Operation bytes `11 yyy zzz` after DD or FD: POP, JP and LD SP, and PUSH. -/
theorem decodeIndexed_readsBack_quarter3 (x : Index) (y z : BitVec 3) (rest : List Byte) :
    ReadsBack ([x.selector, opByte 0b11 y z] ++ rest) (decodeIndexed x (opByte 0b11 y z) rest) := by
  cases z using code3_cases with
  | c0 | c2 | c3 | c4 | c6 | c7 => cases y using code3_cases <;> exact readsBack_error _ _
  | c1 =>
    cases y using code3_cases
    case c4 | c5 | c7 => exact readsBack_noOperand (x.pick_encodes ⟨rfl, rfl⟩ ⟨rfl, rfl⟩) rest
    all_goals exact readsBack_error _ _
  | c5 =>
    cases y using code3_cases
    case c4 => exact readsBack_noOperand (x.pick_encodes ⟨rfl, rfl⟩ ⟨rfl, rfl⟩) rest
    all_goals exact readsBack_error _ _

theorem decodeIndexed_readsBack (x : Index) (op : Byte) (rest : List Byte) :
    ReadsBack ([x.selector, op] ++ rest) (decodeIndexed x op rest) := by
  obtain ⟨q, y, z, rfl⟩ := exists_opByte op
  cases q using code2_cases with
  | c0 => exact decodeIndexed_readsBack_quarter0 x y z rest
  | c1 => exact decodeIndexed_readsBack_quarter1 x y z rest
  | c2 => exact decodeIndexed_readsBack_quarter2 x y z rest
  | c3 => exact decodeIndexed_readsBack_quarter3 x y z rest

theorem decodeIndexedCB_readsBack (x : Index) (d op : Byte) (rest : List Byte) :
    ReadsBack ([x.selector, 0xCB, d, op] ++ rest) (decodeIndexedCB x d op rest) := by
  obtain ⟨q, y, z, rfl⟩ := exists_opByte op
  rw [decodeIndexedCB, groupX_opByte, groupY_opByte, groupZ_opByte]
  split_ifs with hz
  · subst hz
    cases q using code2_cases with
    | c0 => exact readsBack_noOperand? (fun _ => shiftIndexed_encodes) rest
    | c1 | c2 | c3 => exact readsBack_noOperand (x.pick_encodes ⟨rfl, rfl⟩ ⟨rfl, rfl⟩) rest
  · exact readsBack_error _ _

/-! ## The bytes after a first byte -/

theorem decodeAfterCB_readsBack (rest : List Byte) : ReadsBack ([0xCB] ++ rest) (decodeAfterCB rest) := by
  cases rest with
  | nil => exact readsBack_error _ _
  | cons op rest => exact decodeCB_readsBack op rest

theorem decodeAfterED_readsBack (rest : List Byte) : ReadsBack ([0xED] ++ rest) (decodeAfterED rest) := by
  cases rest with
  | nil => exact readsBack_error _ _
  | cons op rest => exact decodeED_readsBack op rest

theorem decodeAfterIndex_readsBack (x : Index) (rest : List Byte) :
    ReadsBack ([x.selector] ++ rest) (decodeAfterIndex x rest) := by
  cases rest with
  | nil => exact readsBack_error _ _
  | cons op rest =>
    by_cases hop : op = 0xCB
    · subst hop
      match rest with
      | [] | [_] => exact readsBack_error _ _
      | d :: op :: rest => exact decodeIndexedCB_readsBack x d op rest
    · rw [decodeAfterIndex_of_ne_CB x rest hop]
      exact decodeIndexed_readsBack x op rest

/-! ## The main map -/

theorem decodeQuarter0_readsBack (y z : BitVec 3) (rest : List Byte) :
    ReadsBack ([opByte 0b00 y z] ++ rest) (decodeQuarter0 (opByte 0b00 y z) rest) := by
  cases z using code3_cases with
  | c0 =>
    cases y using code3_cases
    case c0 => exact readsBack_noOperand ⟨rfl, rfl⟩ rest
    all_goals exact readsBack_error _ _
  | c1 =>
    cases y using code3_cases
    case c0 | c2 | c4 | c6 => exact readsBack_immediateWord (fun _ => ⟨rfl, rfl⟩) rest
    case c1 | c3 | c5 | c7 => exact readsBack_noOperand ⟨rfl, rfl⟩ rest
  | c2 =>
    cases y using code3_cases
    case c0 | c1 | c2 | c3 => exact readsBack_noOperand ⟨rfl, rfl⟩ rest
    case c4 | c5 | c6 | c7 => exact readsBack_immediateWord (fun _ => ⟨rfl, rfl⟩) rest
  | c3 | c4 | c5 | c7 => cases y using code3_cases <;> exact readsBack_noOperand ⟨rfl, rfl⟩ rest
  | c6 => cases y using code3_cases <;> exact readsBack_oneByte (fun _ => ⟨rfl, rfl⟩) rest

theorem decodeQuarter1_readsBack (y z : BitVec 3) (rest : List Byte) :
    ReadsBack ([opByte 0b01 y z] ++ rest) (decodeQuarter1 (opByte 0b01 y z) rest) := by
  rw [decodeQuarter1, groupY_opByte, groupZ_opByte]
  cases y using Reg8.operand_cases with
  | reg r =>
    rw [Reg8.ofCode_code]
    cases z using Reg8.operand_cases with
    | reg r' => rw [Reg8.ofCode_code]; exact readsBack_noOperand ⟨rfl, rfl⟩ rest
    | memory => exact readsBack_noOperand ⟨rfl, rfl⟩ rest
  | memory =>
    cases z using Reg8.operand_cases with
    | reg r => rw [Reg8.ofCode_code]; exact readsBack_noOperand ⟨rfl, rfl⟩ rest
    | memory => exact readsBack_noOperand ⟨rfl, rfl⟩ rest

theorem decodeQuarter2_readsBack (y z : BitVec 3) (rest : List Byte) :
    ReadsBack ([opByte 0b10 y z] ++ rest) (decodeQuarter2 (opByte 0b10 y z) rest) := by
  rw [decodeQuarter2, groupY_opByte, groupZ_opByte]
  cases z using Reg8.operand_cases with
  | reg r => rw [Reg8.ofCode_code]; exact readsBack_noOperand (aluReg_encodes y r) rest
  | memory => exact readsBack_noOperand (aluHL_encodes y) rest

theorem decodeStackRow_readsBack (y : BitVec 3) (rest : List Byte) :
    ReadsBack ([opByte 0b11 y 0b001] ++ rest) (decodeStackRow (opByte 0b11 y 0b001) rest) := by
  cases y using code3_cases
  case c3 => exact readsBack_error _ _
  all_goals exact readsBack_noOperand ⟨rfl, rfl⟩ rest

theorem decodeMiscRow_readsBack (y : BitVec 3) (rest : List Byte) :
    ReadsBack ([opByte 0b11 y 0b011] ++ rest) (decodeMiscRow (opByte 0b11 y 0b011) rest) := by
  cases y using code3_cases with
  | c0 => exact readsBack_immediateWord (fun _ => ⟨rfl, rfl⟩) rest
  | c1 => exact decodeAfterCB_readsBack rest
  | c2 | c3 => exact readsBack_oneByte (fun _ => ⟨rfl, rfl⟩) rest
  | c4 | c5 | c6 | c7 => exact readsBack_noOperand ⟨rfl, rfl⟩ rest

theorem decodePushRow_readsBack (y : BitVec 3) (rest : List Byte) :
    ReadsBack ([opByte 0b11 y 0b101] ++ rest) (decodePushRow (opByte 0b11 y 0b101) rest) := by
  cases y using code3_cases with
  | c0 | c2 | c4 | c6 => exact readsBack_noOperand ⟨rfl, rfl⟩ rest
  | c1 => exact readsBack_immediateWord (fun _ => ⟨rfl, rfl⟩) rest
  | c3 => exact decodeAfterIndex_readsBack .ix rest
  | c5 => exact decodeAfterED_readsBack rest
  | c7 => exact decodeAfterIndex_readsBack .iy rest

theorem decodeQuarter3_readsBack (y z : BitVec 3) (rest : List Byte) :
    ReadsBack ([opByte 0b11 y z] ++ rest) (decodeQuarter3 (opByte 0b11 y z) rest) := by
  rw [decodeQuarter3, groupY_opByte, groupZ_opByte]
  cases z using code3_cases with
  | c0 => cases y using code3_cases <;> exact readsBack_noOperand ⟨rfl, rfl⟩ rest
  | c1 => exact decodeStackRow_readsBack y rest
  | c2 | c4 => cases y using code3_cases <;> exact readsBack_immediateWord (fun _ => ⟨rfl, rfl⟩) rest
  | c3 => exact decodeMiscRow_readsBack y rest
  | c5 => exact decodePushRow_readsBack y rest
  | c6 => exact readsBack_oneByte (aluImm_encodes y) rest
  | c7 => exact readsBack_noOperand (rst_encodes y) rest

theorem decode_readsBack (bytes : List Byte) : ReadsBack bytes (decode bytes) := by
  cases bytes with
  | nil => exact readsBack_error _ _
  | cons op rest =>
    obtain ⟨x, y, z, rfl⟩ := exists_opByte op
    rw [decode, groupX_opByte]
    cases x using code2_cases with
    | c0 => exact decodeQuarter0_readsBack y z rest
    | c1 => exact decodeQuarter1_readsBack y z rest
    | c2 => exact decodeQuarter2_readsBack y z rest
    | c3 => exact decodeQuarter3_readsBack y z rest

/-- Settles O2: every map of the decoder reads back. -/
theorem encodeAfterDecode : Obligations.EncodeAfterDecode :=
  fun bytes rest i h => decode_readsBack bytes i rest h

end Sys2Proof
end

section
/-! PROOF. Which bytes match no row (30_encoding.md R92 to R96): a row refuses none of the bytes that follow its
operation byte, so each map refuses by the groups of the operation byte alone. -/

namespace Sys2Proof

open Machine

/-! ## Operand formats and groups of rows -/

@[simp] theorem noOperand_not_undefined (i : Instr) (rest : List Byte) :
    noOperand i rest ≠ .error .undefinedOpcode := nofun

@[simp] theorem oneByte_not_undefined (f : Byte → Instr) (rest : List Byte) :
    oneByte f rest ≠ .error .undefinedOpcode := by
  cases rest <;> exact nofun

@[simp] theorem twoBytes_not_undefined (f : Byte → Byte → Instr) (rest : List Byte) :
    twoBytes f rest ≠ .error .undefinedOpcode := by
  match rest with
  | [] | [_] | _ :: _ :: _ => exact nofun

@[simp] theorem immediateWord_not_undefined (f : Word → Instr) (rest : List Byte) :
    immediateWord f rest ≠ .error .undefinedOpcode := by
  match rest with
  | [] | [_] | _ :: _ :: _ => exact nofun

@[simp] theorem noOperand?_undefined_iff (row : Option Instr) (rest : List Byte) :
    noOperand? row rest = .error .undefinedOpcode ↔ row = none := by
  cases row with
  | none => exact iff_of_true rfl rfl
  | some i => exact iff_of_false nofun nofun

@[simp] theorem shiftReg_eq_none {y : BitVec 3} {r : Reg8} : shiftReg y r = none ↔ y = 0b110 := by
  cases y using code3_cases <;> simp [shiftReg]

@[simp] theorem shiftHL_eq_none {y : BitVec 3} : shiftHL y = none ↔ y = 0b110 := by
  cases y using code3_cases <;> simp [shiftHL]

@[simp] theorem shiftIndexed_eq_none {x : Index} {y : BitVec 3} {d : Byte} :
    shiftIndexed x y d = none ↔ y = 0b110 := by
  cases y using code3_cases <;> simp [shiftIndexed]

/-! ## The maps after a first byte -/

theorem decodeCB_undefined_iff (x : BitVec 2) (y z : BitVec 3) (rest : List Byte) :
    decodeCB (opByte x y z) rest = .error .undefinedOpcode ↔ x = 0b00 ∧ y = 0b110 := by
  rw [decodeCB, groupX_opByte, groupY_opByte, groupZ_opByte]
  cases Reg8.ofCode z <;> cases x using code2_cases <;> simp

theorem decodeED_undefined_iff (x : BitVec 2) (y z : BitVec 3) (rest : List Byte) :
    decodeED (opByte x y z) rest = .error .undefinedOpcode ↔
      x ≠ 0b01 ∨ (z = 0b000 ∨ z = 0b001) ∧ y = 0b110 ∨ z = 0b100 ∧ y ≠ 0b000 ∨ z = 0b101 ∨ z = 0b110 ∨
        z = 0b111 ∧ y ≠ 0b100 ∧ y ≠ 0b101 := by
  rw [decodeED, groupX_opByte, groupY_opByte, groupZ_opByte]
  cases x using code2_cases with
  | c0 | c2 | c3 => simp
  | c1 =>
    cases z using code3_cases with
    | c0 | c1 => cases y using Reg8.operand_cases <;> simp
    | c2 | c3 | c4 | c5 | c6 | c7 => simp [ite_eq_iff]

theorem decodeIndexed_undefined_iff_quarter0 (x : Index) (y z : BitVec 3) (rest : List Byte) :
    decodeIndexed x (opByte 0b00 y z) rest = .error .undefinedOpcode ↔
      z = 0b000 ∨ z = 0b001 ∧ bit3 (opByte 0b00 y z) = false ∧ y ≠ 0b100 ∨
        (z = 0b010 ∨ z = 0b011) ∧ y ≠ 0b100 ∧ y ≠ 0b101 ∨
        (z = 0b100 ∨ z = 0b101 ∨ z = 0b110) ∧ y ≠ 0b110 ∨ z = 0b111 := by
  rw [decodeIndexed, groupX_opByte, groupY_opByte, groupZ_opByte]
  cases z using code3_cases <;> simp [ite_eq_iff]

theorem decodeIndexed_undefined_iff_quarter1 (x : Index) (y z : BitVec 3) (rest : List Byte) :
    decodeIndexed x (opByte 0b01 y z) rest = .error .undefinedOpcode ↔ (y = 0b110 ↔ z = 0b110) := by
  rw [decodeIndexed, groupX_opByte, groupY_opByte, groupZ_opByte]
  cases y using Reg8.operand_cases <;> cases z using Reg8.operand_cases <;> simp

theorem decodeIndexed_undefined_iff_quarter2 (x : Index) (y z : BitVec 3) (rest : List Byte) :
    decodeIndexed x (opByte 0b10 y z) rest = .error .undefinedOpcode ↔ z ≠ 0b110 := by
  rw [decodeIndexed, groupX_opByte, groupZ_opByte]
  simp

theorem decodeIndexed_undefined_iff_quarter3 (x : Index) (y z : BitVec 3) (rest : List Byte) :
    decodeIndexed x (opByte 0b11 y z) rest = .error .undefinedOpcode ↔
      opByte 0b11 y z ∉ ([0xE1, 0xE5, 0xE9, 0xF9] : List Byte) := by
  rw [decodeIndexed, groupX_opByte]
  simp [ite_eq_iff]

/-- The rows after DD or FD, CB apart (30_encoding.md R95). -/
theorem decodeIndexed_undefined_iff (x : Index) (op : Byte) (rest : List Byte) :
    decodeIndexed x op rest = .error .undefinedOpcode ↔
      op ∉ ([0x09, 0x19, 0x29, 0x39, 0x21, 0x22, 0x23, 0x2A, 0x2B, 0x34, 0x35, 0x36,
        0x46, 0x4E, 0x56, 0x5E, 0x66, 0x6E, 0x7E, 0x70, 0x71, 0x72, 0x73, 0x74, 0x75, 0x77,
        0x86, 0x8E, 0x96, 0x9E, 0xA6, 0xAE, 0xB6, 0xBE, 0xE1, 0xE5, 0xE9, 0xF9] : List Byte) := by
  obtain ⟨q, y, z, rfl⟩ := exists_opByte op
  cases q using code2_cases with
  | c0 => exact (decodeIndexed_undefined_iff_quarter0 x y z rest).trans (by revert y z; decide)
  | c1 => exact (decodeIndexed_undefined_iff_quarter1 x y z rest).trans (by revert y z; decide)
  | c2 => exact (decodeIndexed_undefined_iff_quarter2 x y z rest).trans (by revert y z; decide)
  | c3 => exact (decodeIndexed_undefined_iff_quarter3 x y z rest).trans (by revert y z; decide)

theorem decodeIndexedCB_undefined_iff (x : Index) (d : Byte) (q : BitVec 2) (y z : BitVec 3) (rest : List Byte) :
    decodeIndexedCB x d (opByte q y z) rest = .error .undefinedOpcode ↔ z ≠ 0b110 ∨ q = 0b00 ∧ y = 0b110 := by
  rw [decodeIndexedCB, groupX_opByte, groupY_opByte, groupZ_opByte]
  cases q using code2_cases <;> simp [imp_iff_not_or]

/-! ## The main map -/

theorem decodeQuarter0_undefined_iff (y z : BitVec 3) (rest : List Byte) :
    decodeQuarter0 (opByte 0b00 y z) rest = .error .undefinedOpcode ↔ z = 0b000 ∧ y ≠ 0b000 := by
  rw [decodeQuarter0, groupY_opByte, groupZ_opByte]
  cases z using code3_cases with
  | c0 | c7 => simp
  | c1 | c3 => simp [ite_eq_iff]
  | c2 => cases y using code3_cases <;> simp
  | c4 | c5 | c6 => cases y using Reg8.operand_cases <;> simp

theorem decodeQuarter1_not_undefined (op : Byte) (rest : List Byte) :
    decodeQuarter1 op rest ≠ .error .undefinedOpcode := by
  unfold decodeQuarter1
  split <;> simp

theorem decodeQuarter2_not_undefined (op : Byte) (rest : List Byte) :
    decodeQuarter2 op rest ≠ .error .undefinedOpcode := by
  unfold decodeQuarter2
  split <;> simp

theorem decodeQuarter3_undefined_iff {y z : BitVec 3} (rest : List Byte)
    (hop : opByte 0b11 y z ∉ ([0xCB, 0xDD, 0xED, 0xFD] : List Byte)) :
    decodeQuarter3 (opByte 0b11 y z) rest = .error .undefinedOpcode ↔ z = 0b001 ∧ y = 0b011 := by
  rw [decodeQuarter3, groupZ_opByte]
  cases z using code3_cases with
  | c0 | c2 | c4 | c6 | c7 => simp
  | c1 => cases y using code3_cases <;> simp [decodeStackRow]
  | c3 =>
    cases y using code3_cases
    case c1 => exact absurd hop (by decide)
    all_goals simp [decodeMiscRow]
  | c5 =>
    cases y using code3_cases
    case c3 | c5 | c7 => exact absurd hop (by decide)
    all_goals simp [decodePushRow]

theorem decode_undefined_iff (op : Byte) (rest : List Byte) (hop : op ∉ ([0xCB, 0xDD, 0xED, 0xFD] : List Byte)) :
    decode (op :: rest) = .error .undefinedOpcode ↔
      op ∈ ([0x08, 0x10, 0x18, 0x20, 0x28, 0x30, 0x38, 0xD9] : List Byte) := by
  obtain ⟨x, y, z, rfl⟩ := exists_opByte op
  rw [decode, groupX_opByte]
  cases x using code2_cases with
  | c0 => exact (decodeQuarter0_undefined_iff y z rest).trans (by revert y z; decide)
  | c1 => exact iff_of_false (decodeQuarter1_not_undefined _ rest) (by revert y z; decide)
  | c2 => exact iff_of_false (decodeQuarter2_not_undefined _ rest) (by revert y z; decide)
  | c3 => exact (decodeQuarter3_undefined_iff rest hop).trans (by revert y z; decide)

/-- Settles O4: the groups that each map refuses, counted out as bytes. -/
theorem undefinedEncodingsRefused : Obligations.UndefinedEncodingsRefused := by
  refine ⟨decode_undefined_iff, fun op rest => ?_, fun op rest => ?_, fun first op rest hfirst hop => ?_,
    fun first d op rest hfirst => ?_⟩
  · obtain ⟨x, y, z, rfl⟩ := exists_opByte op
    exact (decodeCB_undefined_iff x y z rest).trans (by revert x y z; decide)
  · obtain ⟨x, y, z, rfl⟩ := exists_opByte op
    exact (decodeED_undefined_iff x y z rest).trans (by revert x y z; decide)
  · obtain ⟨x, rfl⟩ := Index.eq_selector hfirst
    rw [decode_selector, decodeAfterIndex_of_ne_CB x rest hop, decodeIndexed_undefined_iff]
  · obtain ⟨x, rfl⟩ := Index.eq_selector hfirst
    obtain ⟨q, y, z, rfl⟩ := exists_opByte op
    rw [decode_selector]
    exact (decodeIndexedCB_undefined_iff x d q y z rest).trans (by revert q y z; decide)

end Sys2Proof
end

section
/-! PROOF. The 8-bit loads (40_load8.md R120 to R137): each row is a moveByte, so what they share is proved of moveByte
once. -/

namespace Sys2Proof.Machine

/-! ## What an update of a place writes -/

theorem State.setReg8_eq (s : State) (r : Reg8) (v : Byte) :
    s.setReg8 r v = { s with regs := (s.setReg8 r v).regs } := by cases r <;> rfl

theorem State.poke_eq (s : State) (a : Word) (v : Byte) :
    s.poke a v = { s with mem := (s.poke a v).mem } := by unfold State.poke; split <;> rfl

theorem State.putPlace_eq (s : State) (p : Place) (v : Byte) :
    s.putPlace p v = { s with regs := (s.putPlace p v).regs, mem := (s.putPlace p v).mem } := by
  cases p with
  | reg r =>
    simp only [State.putPlace, State.setReg8_mem]
    exact s.setReg8_eq r v
  | mem m =>
    simp only [State.putPlace, State.poke_regs]
    exact s.poke_eq _ v

/-! ## A place that takes a byte at the end of an instruction -/

/-- One byte stored, then the ordinary end: RAM holds the byte, ROM keeps its own (20_memory.md R51). -/
theorem answersStoring_finish (s : State) (a : Word) (v : Byte) (f : Flags) (len : Word) :
    s.AnswersStoring [(a, v)] (fun mem => { s with mem := mem, flags := f, pc := s.pc + len, inhibit := false })
      (((s.poke a v).setFlags f).finish len) := by
  refine ⟨(s.poke a v).mem, ?_, fun x => s.peek_poke a x v⟩
  rw [s.poke_eq a v]
  rfl

theorem answersPlace_finish (s : State) (p : Place) (v : Byte) (f : Flags) (len : Word) :
    s.AnswersPlace p v f len (((s.putPlace p v).setFlags f).finish len) := by
  cases p with
  | reg r => exact answersReg8_finish s r v f len
  | mem m => exact answersStoring_finish s (s.address m) v f len

/-! ## moveByte completes where its source can be read and its destination reached -/

theorem State.canRead_place {s : State} {p : Place} : s.canRead (.place p) = true ↔ s.reaches p := by
  cases p <;> simp [State.canRead, State.reaches]

theorem State.byteOf_place (s : State) (p : Place) : s.byteOf (.place p) = s.getPlace p := by cases p <;> rfl

/-- The two cases of moveByte_next as one: the source's byte goes to the destination. -/
theorem moveByte_next_iff {s t : State} {dst : Place} {src : Source} {len : Word} :
    moveByte dst src len s = .next t ↔
      s.canRead src = true ∧ s.reaches dst ∧ t = (s.putPlace dst (s.byteOf src)).retire len := by
  rw [moveByte_next]
  cases src with
  | place p => rw [State.canRead_place, State.byteOf_place]
  | imm n => simp [State.canRead, State.byteOf]

theorem moveByte_answersPlace {s : State} {dst : Place} {src : Source} (hsrc : s.canRead src = true)
    (hdst : s.reaches dst) (len : Word) :
    s.AnswersPlace dst (s.byteOf src) s.flags len (moveByte dst src len s) := by
  have hnext : moveByte dst src len s = ((s.putPlace dst (s.byteOf src)).setFlags s.flags).finish len := by
    rw [moveByte_next_iff.2 ⟨hsrc, hdst, rfl⟩, State.finish, ← s.putPlace_flags dst (s.byteOf src)]
    rfl
  rw [hnext]
  exact answersPlace_finish s dst (s.byteOf src) s.flags len

/-! ## moveByte and the flags (40_load8.md R120) -/

theorem State.setReg8_setFlags (s : State) (r : Reg8) (v : Byte) (f : Flags) :
    (s.setFlags f).setReg8 r v = (s.setReg8 r v).setFlags f := by cases r <;> rfl

theorem State.poke_setFlags (s : State) (a : Word) (v : Byte) (f : Flags) :
    (s.setFlags f).poke a v = (s.poke a v).setFlags f := by
  have hkind : (s.setFlags f).kindAt a = s.kindAt a := rfl
  unfold State.poke
  rw [hkind]
  split <;> rfl

@[simp] theorem State.setFlags_address (s : State) (m : MemOperand) (f : Flags) :
    (s.setFlags f).address m = s.address m := by cases m <;> rfl

/-- Reading a source does not look at the flags: a change `g` of the next state passes to what follows the read. -/
theorem State.readSource_setFlags {s : State} {src : Source} {f : Flags} {g : State → State} {k k' : Byte → Result}
    (hk : ∀ v, k' v = mapNext g (k v)) : (s.setFlags f).readSource src k' = mapNext g (s.readSource src k) := by
  obtain rfl : k' = fun v => mapNext g (k v) := funext hk
  cases src with
  | imm n => rfl
  | place p =>
    cases p with
    | reg r => cases r <;> rfl
    | mem m =>
      simp only [State.readSource, State.readPlace, State.setFlags_address]
      cases haccess : s.canAccess (s.address m) with
      | true => rw [State.load_of_access haccess, State.load_of_access (s := s.setFlags f) haccess]; rfl
      | false => rw [State.load_of_no_access haccess, State.load_of_no_access (s := s.setFlags f) haccess]; rfl

/-- Writing a place does not look at the flags and leaves them as they are. -/
theorem State.writePlace_setFlags {s : State} {p : Place} {v : Byte} {f : Flags} {k : State → Result}
    (hk : ∀ t : State, k (t.setFlags f) = mapNext (·.setFlags f) (k t)) :
    (s.setFlags f).writePlace p v k = mapNext (·.setFlags f) (s.writePlace p v k) := by
  cases p with
  | reg r => simp only [State.writePlace, State.setReg8_setFlags, hk]
  | mem m =>
    simp only [State.writePlace, State.setFlags_address]
    cases haccess : s.canAccess (s.address m) with
    | true =>
      rw [State.store_of_access haccess, State.store_of_access (s := s.setFlags f) haccess, State.poke_setFlags, hk]
    | false => rw [State.store_of_no_access haccess, State.store_of_no_access (s := s.setFlags f) haccess]; rfl

theorem moveByte_setFlags (dst : Place) (src : Source) (len : Word) (s : State) (f : Flags) :
    moveByte dst src len (s.setFlags f) = mapNext (·.setFlags f) (moveByte dst src len s) :=
  State.readSource_setFlags fun _ => State.writePlace_setFlags fun _ => rfl

/-! ## The rows -/

/-- Every 8-bit load is a moveByte into its destination. -/
theorem exec_eq_moveByte {i : Instr} {p : Place} (h : load8Destination i = some p) :
    ∃ src len, ∀ s, exec i s = moveByte p src len s := by
  cases i with
  | ldRegReg _ _ | ldRegImm _ _ | ldRegHL _ | ldRegIX _ _ | ldRegIY _ _ | ldHLReg _ | ldIXReg _ _ | ldIYReg _ _
  | ldHLImm _ | ldIXImm _ _ | ldIYImm _ _ | ldABC | ldADE | ldAMem _ | ldBCA | ldDEA | ldMemA _ =>
    cases h
    dsimp only [exec]
    exact ⟨_, _, fun _ => rfl⟩
  | _ => cases h

/-- Settles O26: moveByte commutes with a change of the flags, and of the next state putPlace writes one place and
State.retire pc and inhibit. -/
theorem load8TouchesOnlyItsDestination : Obligations.Load8TouchesOnlyItsDestination := by
  intro i p hp
  obtain ⟨src, len, hexec⟩ := exec_eq_moveByte hp
  simp only [hexec]
  refine ⟨moveByte_setFlags p src len, fun s t h => ?_⟩
  obtain ⟨-, -, rfl⟩ := moveByte_next_iff.1 h
  constructor
  · rw [s.putPlace_eq p (s.byteOf src)]
    rfl
  · cases p with
    | reg r => exact ⟨fun q hq => s.setReg8_reg8_other _ hq, s.setReg8_mem r _⟩
    | mem m =>
      refine ⟨s.poke_regs _ _, fun a ha => ?_⟩
      exact (s.peek_poke (s.address m) a _).trans (if_neg fun hram => ha hram.1)

/-- Settles O29: each row is a moveByte into the register, which every state reaches. -/
theorem loadRegisterResult : Obligations.LoadRegisterResult := by
  intro s r r' n d nn e he hread
  have hexec : exec e.1 s = moveByte (.reg e.2.1) e.2.2.1 e.2.2.2 s := by
    simp only [List.mem_cons, List.not_mem_nil, or_false] at he
    rcases he with rfl | rfl | rfl | rfl | rfl | rfl | rfl | rfl <;> rfl
  rw [hexec]
  exact moveByte_answersPlace (dst := .reg e.2.1) hread trivial e.2.2.2

/-- Settles O30: each row is a moveByte from a register or an immediate, which every state can read. -/
theorem storeByteResult : Obligations.StoreByteResult := by
  intro s r n d nn e he haccess
  obtain ⟨src, hexec, hbyte, hread⟩ : ∃ src, exec e.1 s = moveByte (.mem e.2.1) src e.2.2.2 s ∧
      s.byteOf src = e.2.2.1 ∧ s.canRead src = true := by
    simp only [List.mem_cons, List.not_mem_nil, or_false] at he
    rcases he with rfl | rfl | rfl | rfl | rfl | rfl | rfl | rfl | rfl
    iterate 3 exact ⟨.place (.reg r), rfl, rfl, rfl⟩
    iterate 3 exact ⟨.imm n, rfl, rfl, rfl⟩
    iterate 3 exact ⟨.place (.reg .a), rfl, rfl, rfl⟩
  rw [hexec, ← hbyte]
  exact moveByte_answersPlace (dst := .mem e.2.1) hread haccess e.2.2.2

end Sys2Proof.Machine
end

section
/-! PROOF. The 16-bit loads, EX, PUSH and POP (41_load16.md R140 to R162): each row is a 16-bit register that takes a
word, or two bytes stored one after the other. -/

namespace Sys2Proof.Machine

/-! ## A 16-bit register that takes a word at the end of an instruction -/

@[simp] theorem State.setReg16_reg16_same (s : State) (r : Reg16) (w : Word) : (s.setReg16 r w).reg16 r = w := by
  cases r <;> simp [State.setReg16, State.reg16]

theorem State.setReg16_eq (s : State) (r : Reg16) (w : Word) :
    s.setReg16 r w =
      { s with
        regs := (s.setReg16 r w).regs, ix := (s.setReg16 r w).ix, iy := (s.setReg16 r w).iy
        sp := (s.setReg16 r w).sp } := by cases r <;> rfl

theorem answersReg16_finish (s : State) (r : Reg16) (w : Word) (f : Flags) (len : Word) :
    s.AnswersReg16 r w f len (((s.setReg16 r w).setFlags f).finish len) := by
  refine ⟨_, rfl, s.setReg16_reg16_same r w, fun q hq => s.setReg16_reg16_other w hq, s.setReg16_a r w, ?_⟩
  rw [s.setReg16_eq r w]
  rfl

theorem assign16_answersReg16 (s : State) (r : Reg16) (w len : Word) :
    s.AnswersReg16 r w s.flags len (assign16 r w len s) := by
  have hflags : (s.setReg16 r w).setFlags s.flags = s.setReg16 r w := by cases r <;> rfl
  have h := answersReg16_finish s r w s.flags len
  rwa [hflags] at h

theorem loadReg16_of_access {s : State} {nn : Word} (h1 : s.canAccess nn = true) (h2 : s.canAccess (nn + 1) = true)
    (dst : Reg16) (len : Word) :
    loadReg16 dst nn len s = assign16 dst (word (s.peek (nn + 1)) (s.peek nn)) len s :=
  loadReg16_next.2 ⟨h1, h2, rfl⟩

/-- The two steps of SP in a pop (20_memory.md R59) are one of 2. -/
theorem succ_succ (w : Word) : w + 1 + 1 = w + 2 := by
  rw [BitVec.add_assoc]; rfl

theorem popReg16_of_access {s : State} (h1 : s.canAccess s.sp = true) (h2 : s.canAccess (s.sp + 1) = true)
    (dst : Reg16) (len : Word) :
    popReg16 dst len s =
      assign16 dst (word (s.peek (s.sp + 1)) (s.peek s.sp)) len { s with sp := s.sp + 2 } := by
  rw [popReg16, State.pop_of_access h1 h2, succ_succ]

/-! ## Two bytes stored one after the other -/

theorem State.poke_poke_eq (s : State) (a b : Word) (v u : Byte) :
    (s.poke a v).poke b u = { s with mem := ((s.poke a v).poke b u).mem } := by
  rw [(s.poke a v).poke_eq b u, s.poke_eq a v]

/-- Each of the two bytes stands where RAM took it (20_memory.md R51). -/
theorem State.peek_poke_poke (s : State) (a b : Word) (v u : Byte) (x : Word) :
    ((s.poke a v).poke b u).peek x = s.peekAfter [(a, v), (b, u)] x := by
  rw [State.peek_poke, State.peek_poke, State.poke_kindAt]
  rfl

/-- An answer that stores two bytes, in the words of the statements. -/
theorem answersStoring_poke_poke {s : State} {a b : Word} {v u : Byte} {after : Memory → State} {r : Result}
    (h : r = .next (after ((s.poke a v).poke b u).mem)) : s.AnswersStoring [(a, v), (b, u)] after r :=
  ⟨_, h, s.peek_poke_poke a b v u⟩

theorem storeReg16_answersStoring {s : State} {nn : Word} (h1 : s.canAccess nn = true)
    (h2 : s.canAccess (nn + 1) = true) (src : Reg16) (len : Word) :
    s.AnswersStoring [(nn, lowByte (s.reg16 src)), (nn + 1, highByte (s.reg16 src))]
      (fun mem => { s with mem := mem, pc := s.pc + len, inhibit := false }) (storeReg16 nn src len s) := by
  refine answersStoring_poke_poke ?_
  rw [storeReg16_next.2 ⟨h1, h2, rfl⟩, State.poke_poke_eq]
  rfl

theorem State.pushed_eq (s : State) (w : Word) :
    s.pushed w = { s with
      sp := s.sp - 2, mem := ((s.poke (s.sp - 1) (highByte w)).poke (s.sp - 2) (lowByte w)).mem } := by
  have hpokes : s.pushed w =
      { (s.poke (s.sp - 1) (highByte w)).poke (s.sp - 2) (lowByte w) with sp := s.sp - 2 } := by
    simp only [State.pushed, State.poke_withSp]
  rw [hpokes, State.poke_poke_eq]

theorem push_answersStoring {s : State} (h1 : s.canAccess (s.sp - 1) = true) (h2 : s.canAccess (s.sp - 2) = true)
    (w len : Word) :
    s.AnswersStoring [(s.sp - 1, highByte w), (s.sp - 2, lowByte w)]
      (fun mem => { s with mem := mem, sp := s.sp - 2, pc := s.pc + len, inhibit := false })
      (s.push w fun u => u.finish len) := by
  have hnext : (s.push w fun u => u.finish len) = .next ((s.pushed w).retire len) :=
    State.push_next.2 ⟨h1, h2, rfl⟩
  refine answersStoring_poke_poke ?_
  rw [hnext, State.pushed_eq]
  rfl

theorem exec_exSPHL_of_access {s : State} (h1 : s.canAccess s.sp = true) (h2 : s.canAccess (s.sp + 1) = true) :
    exec .exSPHL s = assign16 .hl (word (s.peek (s.sp + 1)) (s.peek s.sp)) 1
      ((s.poke (s.sp + 1) s.regs.h).poke s.sp s.regs.l) := by
  have h3 : (s.poke (s.sp + 1) s.regs.h).canAccess s.sp = true := (s.poke_canAccess ..).trans h1
  simp only [exec, execExSPHL, State.load16, State.load_of_access h1, State.load_of_access h2,
    State.store_of_access h2, State.store_of_access h3]

/-! ## The rows -/

/-- Settles O35: each row pushes one word; that of AF is A and a byte F from which the six flags can be read back. -/
theorem pushResult : Obligations.PushResult := by
  intro s h1 h2
  refine ⟨fun e he => ?_, ?_⟩
  · obtain ⟨src, hexec, hhigh, hlow⟩ : ∃ src, exec e.1 s = pushReg16 src e.2.2.2 s ∧
        highByte (s.reg16 src) = e.2.1 ∧ lowByte (s.reg16 src) = e.2.2.1 := by
      simp only [List.mem_cons, List.not_mem_nil, or_false] at he
      rcases he with rfl | rfl | rfl | rfl | rfl
      · exact ⟨.bc, rfl, highByte_word .., lowByte_word ..⟩
      · exact ⟨.de, rfl, highByte_word .., lowByte_word ..⟩
      · exact ⟨.hl, rfl, highByte_word .., lowByte_word ..⟩
      · exact ⟨.ix, rfl, rfl, rfl⟩
      · exact ⟨.iy, rfl, rfl, rfl⟩
    rw [hexec, ← hhigh, ← hlow]
    exact push_answersStoring h1 h2 (s.reg16 src) e.2.2.2
  · have hf := flagsOfByte_flagByte s.flags (Config.any1 s.draws) (Config.any1 (s.draws + 1))
    have hstored := push_answersStoring (s := s.qqDrawn .af) h1 h2 (s.qqValue .af) 1
    rw [← exec_pushPair, State.qqValue, highByte_word, lowByte_word] at hstored
    exact ⟨_, _, congrArg Flags.sf hf, congrArg Flags.zf hf, congrArg Flags.hf hf, congrArg Flags.pf hf,
      congrArg Flags.nf hf, congrArg Flags.cf hf, hstored⟩

/-- Settles O31: each load assigns the immediate or the word at nn to its register; EX DE,HL assigns twice. -/
theorem loadPairResult : Obligations.LoadPairResult := by
  intro s dd nn
  refine ⟨fun e he => ?_, fun h1 h2 e he => ?_, ?_⟩
  · have hexec : exec e.1 s = assign16 e.2.1 nn e.2.2 s := by
      simp only [List.mem_cons, List.not_mem_nil, or_false] at he
      rcases he with rfl | rfl | rfl <;> rfl
    rw [hexec]
    exact assign16_answersReg16 s e.2.1 nn e.2.2
  · have hexec : exec e.1 s = loadReg16 e.2.1 nn e.2.2 s := by
      simp only [List.mem_cons, List.not_mem_nil, or_false] at he
      rcases he with rfl | rfl | rfl | rfl <;> rfl
    rw [hexec, loadReg16_of_access h1 h2]
    exact assign16_answersReg16 s e.2.1 _ e.2.2
  · have hexec : exec .exDEHL s =
        ((s.setReg16 .de (s.reg16 .hl)).setReg16 .hl (s.reg16 .de)).finish 1 := rfl
    rw [hexec]
    simp only [State.setReg16, State.reg16, highByte_word, lowByte_word]
    rfl

/-- Settles O32: each row is a storeReg16 of its register. -/
theorem storePairResult : Obligations.StorePairResult := by
  intro s dd nn h1 h2 e he
  have hexec : exec e.1 s = storeReg16 nn e.2.1 e.2.2 s := by
    simp only [List.mem_cons, List.not_mem_nil, or_false] at he
    rcases he with rfl | rfl | rfl | rfl <;> rfl
  rw [hexec]
  exact storeReg16_answersStoring h1 h2 e.2.1 e.2.2

/-- Settles O33: each row assigns HL, IX or IY to SP. -/
theorem stackPointerLoadResult : Obligations.StackPointerLoadResult := fun _ =>
  ⟨assign16_next.2 rfl, assign16_next.2 rfl, assign16_next.2 rfl⟩

/-- Settles O34: both bytes are read before H and L are stored in their places, then HL takes the word read. -/
theorem exchangeWithStackTop : Obligations.ExchangeWithStackTop := by
  intro s h1 h2
  refine answersStoring_poke_poke ?_
  rw [exec_exSPHL_of_access h1 h2, State.poke_poke_eq]
  simp only [assign16, State.setReg16, highByte_word, lowByte_word]
  rfl

/-- Settles O36: each row but POP AF is a popReg16, an assignment with SP already raised; POP AF writes A and the flags
of the byte at SP. -/
theorem popResult : Obligations.PopResult := by
  intro s h1 h2
  refine ⟨fun e he => ?_, ?_⟩
  · have hexec : exec e.1 s = popReg16 e.2.1 e.2.2 s := by
      simp only [List.mem_cons, List.not_mem_nil, or_false] at he
      rcases he with rfl | rfl | rfl | rfl | rfl <;> rfl
    rw [hexec, popReg16_of_access h1 h2]
    exact assign16_answersReg16 { s with sp := s.sp + 2 } e.2.1 _ e.2.2
  · rw [exec_popPair, State.pop_of_access h1 h2, succ_succ]
    simp only [State.writeQQ, highByte_word, lowByte_word]
    rfl

end Sys2Proof.Machine
end

section
/-! PROOF. The 8-bit arithmetic and logic (42_alu8.md R170 to R230): what the helpers add8, sub8 and daaA compute, said
of the values as numbers; then each row is a combineA, a changeA or a modifyByte of one of them. -/

namespace Sys2Proof.Machine

/-! ## Bytes and flags as numbers -/

theorem bitVal_le_one (c : Bool) : bitVal c ≤ 1 := by cases c <;> decide

theorem toInt_byte (v : Byte) : v.toInt = if v.toNat < 128 then (v.toNat : Int) else v.toNat - 256 := by
  rw [BitVec.toInt_eq_toNat_cond]
  split <;> split <;> omega

theorem bit7_iff_neg (v : Byte) : bit7 v = true ↔ v.toInt < 0 := by
  rw [bit7_eq_decide_neg, decide_eq_true_iff]

theorem toInt_neg_iff (v : Byte) : v.toInt < 0 ↔ 128 ≤ v.toNat := by
  rw [toInt_byte]
  have := v.isLt
  split <;> omega

theorem bit7_eq_decide_le (v : Byte) : bit7 v = decide (128 ≤ v.toNat) := by
  rw [bit7_eq_decide_neg, decide_eq_decide, toInt_neg_iff]

/-- Equality with a byte whose number is known, as an equality of numbers. -/
theorem byte_eq_iff (v u : Byte) (n : Nat) (hu : u.toNat = n) : v = u ↔ v.toNat = n := by
  rw [← BitVec.toNat_inj, hu]

/-! ## Addition (42_alu8.md R171) -/

theorem add8_res_toNat (a v : Byte) (c : Bool) :
    (add8 a v c).res.toNat = (a.toNat + v.toNat + bitVal c) % 256 := BitVec.toNat_ofNat ..

theorem add8_c_iff (a v : Byte) (c : Bool) : (add8 a v c).c = true ↔ 256 ≤ a.toNat + v.toNat + bitVal c :=
  decide_eq_true_iff

theorem add8_h_iff (a v : Byte) (c : Bool) :
    (add8 a v c).h = true ↔ 16 ≤ a.toNat % 16 + v.toNat % 16 + bitVal c := decide_eq_true_iff

theorem add8_z_iff (a v : Byte) (c : Bool) : (add8 a v c).z = true ↔ (add8 a v c).res = 0 := beq_iff_eq

theorem add8_s_iff (a v : Byte) (c : Bool) : (add8 a v c).s = true ↔ (add8 a v c).res.toInt < 0 := bit7_iff_neg _

/-- Operands of one sign and a result of the other: exactly where the signed sum leaves -128 to 127. -/
theorem add8_v_iff (a v : Byte) (c : Bool) :
    (add8 a v c).v = true ↔ a.toInt + v.toInt + bitVal c < -128 ∨ 127 < a.toInt + v.toInt + bitVal c := by
  have hsigns : (add8 a v c).v = true ↔
      (128 ≤ a.toNat ↔ 128 ≤ v.toNat) ∧ ¬ (128 ≤ (add8 a v c).res.toNat ↔ 128 ≤ a.toNat) := by
    change (bit7 a == bit7 v && bit7 (add8 a v c).res != bit7 a) = true ↔ _
    simp only [bit7_eq_decide_le, Bool.and_eq_true, beq_iff_eq, bne_iff_ne, ne_eq, decide_eq_decide]
  rw [hsigns, add8_res_toNat, toInt_byte, toInt_byte]
  have := a.isLt
  have := v.isLt
  have := bitVal_le_one c
  split <;> split <;> omega

/-! ## Subtraction (42_alu8.md R172) -/

theorem sub8_res_toNat (a v : Byte) (c : Bool) :
    (sub8 a v c).res.toNat = (a.toNat + 512 - v.toNat - bitVal c) % 256 := by
  have hres : (sub8 a v c).res = BitVec.ofInt 8 ((a.toNat : Int) - v.toNat - bitVal c) := rfl
  rw [hres, BitVec.toNat_ofInt]
  have := v.isLt
  have := bitVal_le_one c
  omega

theorem sub8_c_iff (a v : Byte) (c : Bool) : (sub8 a v c).c = true ↔ a.toNat < v.toNat + bitVal c := by
  have hc : (sub8 a v c).c = true ↔ (a.toNat : Int) - v.toNat - bitVal c < 0 := decide_eq_true_iff
  rw [hc]
  omega

theorem sub8_h_iff (a v : Byte) (c : Bool) :
    (sub8 a v c).h = true ↔ a.toNat % 16 < v.toNat % 16 + bitVal c := by
  have hh : (sub8 a v c).h = true ↔ ((a.toNat % 16 : Nat) : Int) - (v.toNat % 16 : Nat) - bitVal c < 0 :=
    decide_eq_true_iff
  rw [hh]
  omega

theorem sub8_z_iff (a v : Byte) (c : Bool) : (sub8 a v c).z = true ↔ (sub8 a v c).res = 0 := beq_iff_eq

theorem sub8_s_iff (a v : Byte) (c : Bool) : (sub8 a v c).s = true ↔ (sub8 a v c).res.toInt < 0 := bit7_iff_neg _

/-- Operands of different signs and a result of the subtrahend's: exactly where the signed difference leaves -128 to
127. -/
theorem sub8_v_iff (a v : Byte) (c : Bool) :
    (sub8 a v c).v = true ↔ a.toInt - v.toInt - bitVal c < -128 ∨ 127 < a.toInt - v.toInt - bitVal c := by
  have hsigns : (sub8 a v c).v = true ↔
      ¬ (128 ≤ a.toNat ↔ 128 ≤ v.toNat) ∧ ¬ (128 ≤ (sub8 a v c).res.toNat ↔ 128 ≤ a.toNat) := by
    change (bit7 a != bit7 v && bit7 (sub8 a v c).res != bit7 a) = true ↔ _
    simp only [bit7_eq_decide_le, Bool.and_eq_true, bne_iff_ne, ne_eq, decide_eq_decide]
  rw [hsigns, sub8_res_toNat, toInt_byte, toInt_byte]
  have := a.isLt
  have := v.isLt
  have := bitVal_le_one c
  split <;> split <;> omega

/-- Without a borrow in, the result is the difference of the bytes. -/
theorem sub8_res_of_no_borrow (a v : Byte) : (sub8 a v false).res = a - v := by
  apply BitVec.eq_of_toNat_eq
  have hnone : bitVal false = 0 := rfl
  have := v.isLt
  rw [sub8_res_toNat, BitVec.toNat_sub, hnone]
  omega

/-! ## INC and DEC of a byte (42_alu8.md R220, R224) -/

theorem incByte_res (v : Byte) (f : Flags) : (incByte v f).1 = v + 1 := by
  apply BitVec.eq_of_toNat_eq
  exact (add8_res_toNat v 1 false).trans (BitVec.toNat_add ..).symm

theorem decByte_res (v : Byte) (f : Flags) : (decByte v f).1 = v - 1 := sub8_res_of_no_borrow v 1

/-- The flags of v + 1 in terms of v alone. -/
theorem incByte_flags_iff (v : Byte) (f : Flags) :
    ((incByte v f).2.sf = true ↔ 127 ≤ v.toNat ∧ v.toNat < 255) ∧ ((incByte v f).2.zf = true ↔ v = 0xFF) ∧
      ((incByte v f).2.hf = true ↔ v.toNat % 16 = 15) ∧ ((incByte v f).2.pf = true ↔ v = 0x7F) := by
  have hres : (add8 v 1 false).res.toNat = (v.toNat + 1) % 256 := add8_res_toNat v 1 false
  have := v.isLt
  refine ⟨(add8_s_iff v 1 false).trans ?_, (add8_z_iff v 1 false).trans ?_, (add8_h_iff v 1 false).trans ?_,
    (add8_v_iff v 1 false).trans ?_⟩
  · rw [toInt_neg_iff]
    omega
  · rw [byte_eq_iff (add8 v 1 false).res 0 0 rfl, byte_eq_iff v 0xFF 255 rfl]
    omega
  · change 16 ≤ v.toNat % 16 + 1 ↔ _
    omega
  · change v.toInt + 1 + 0 < -128 ∨ 127 < v.toInt + 1 + 0 ↔ _
    rw [byte_eq_iff v 0x7F 127 rfl, toInt_byte]
    split <;> omega

/-- The flags of v - 1 in terms of v alone. -/
theorem decByte_flags_iff (v : Byte) (f : Flags) :
    ((decByte v f).2.sf = true ↔ v = 0 ∨ 129 ≤ v.toNat) ∧ ((decByte v f).2.zf = true ↔ v = 0x01) ∧
      ((decByte v f).2.hf = true ↔ v.toNat % 16 = 0) ∧ ((decByte v f).2.pf = true ↔ v = 0x80) := by
  have hres : (sub8 v 1 false).res.toNat = (v.toNat + 511) % 256 := sub8_res_toNat v 1 false
  have := v.isLt
  refine ⟨(sub8_s_iff v 1 false).trans ?_, (sub8_z_iff v 1 false).trans ?_, (sub8_h_iff v 1 false).trans ?_,
    (sub8_v_iff v 1 false).trans ?_⟩
  · rw [byte_eq_iff v 0 0 rfl, toInt_neg_iff]
    omega
  · rw [byte_eq_iff (sub8 v 1 false).res 0 0 rfl, byte_eq_iff v 0x01 1 rfl]
    omega
  · change v.toNat % 16 < 1 ↔ _
    omega
  · change v.toInt - 1 - 0 < -128 ∨ 127 < v.toInt - 1 - 0 ↔ _
    rw [byte_eq_iff v 0x80 128 rfl, toInt_byte]
    split <;> omega

/-! ## NEG (42_alu8.md R230) -/

theorem negA_res (a : Byte) (f : Flags) : (negA a f).1 = -a :=
  (sub8_res_of_no_borrow 0 a).trans (BitVec.zero_sub a)

/-- The flags of 0 - a in terms of a alone. -/
theorem negA_flags_iff (a : Byte) (f : Flags) :
    ((negA a f).2.sf = true ↔ (-a).toInt < 0) ∧ ((negA a f).2.zf = true ↔ a = 0) ∧
      ((negA a f).2.hf = true ↔ a.toNat % 16 ≠ 0) ∧ ((negA a f).2.pf = true ↔ a = 0x80) ∧
      ((negA a f).2.cf = true ↔ a ≠ 0) := by
  have := a.isLt
  refine ⟨?_, ?_, (sub8_h_iff 0 a false).trans ?_, (sub8_v_iff 0 a false).trans ?_,
    (sub8_c_iff 0 a false).trans ?_⟩
  · rw [← negA_res a f]
    exact sub8_s_iff 0 a false
  · have hneg : -a = 0 ↔ a = 0 := BitVec.neg_eq_zero_iff
    rw [← hneg, ← negA_res a f]
    exact sub8_z_iff 0 a false
  · change 0 < a.toNat % 16 + 0 ↔ _
    omega
  · change 0 - a.toInt - 0 < -128 ∨ 127 < 0 - a.toInt - 0 ↔ _
    rw [byte_eq_iff a 0x80 128 rfl, toInt_byte]
    split <;> omega
  · change 0 < a.toNat + 0 ↔ _
    rw [ne_eq, byte_eq_iff a 0 0 rfl]
    omega

/-! ## Decimal digits and DAA (42_alu8.md R228) -/

theorem lowDigit_toNat (v : Byte) : (lowDigit v).toNat = v.toNat % 16 := by
  simp [lowDigit, BitVec.extractLsb'_toNat]

theorem highDigit_toNat (v : Byte) : (highDigit v).toNat = v.toNat / 16 := by
  have := v.isLt
  simp only [highDigit, BitVec.extractLsb'_toNat, Nat.shiftRight_eq_div_pow]
  omega

/-- What packed BCD says of a byte as a number: two decimal digits, and the value they write. -/
theorem isBcd_and_bcdValue_iff {v : Byte} {z : Nat} :
    isBcd v = true ∧ bcdValue v = z ↔
      ∃ high low, high < 10 ∧ low < 10 ∧ v.toNat = 16 * high + low ∧ z = 10 * high + low := by
  simp only [isBcd, bcdValue, Bool.and_eq_true, decide_eq_true_iff, lowDigit_toNat, highDigit_toNat]
  constructor
  · rintro ⟨⟨hhigh, hlow⟩, rfl⟩
    exact ⟨v.toNat / 16, v.toNat % 16, hhigh, hlow, by omega, rfl⟩
  · rintro ⟨high, low, hhigh, hlow, hv, rfl⟩
    omega

/-- The two digits of the correction share no bit, so that their union is their sum. -/
theorem daaCorrection_toNat (a : Byte) (f : Flags) :
    (daaCorrection a f).toNat =
      (if f.hf = true ∨ 9 < a.toNat % 16 then 6 else 0) + (if f.cf = true ∨ 0x99 < a.toNat then 0x60 else 0) := by
  simp only [daaCorrection, lowDigit_toNat, Bool.or_eq_true, decide_eq_true_iff]
  split <;> split <;> rfl

theorem daaA_res_toNat (a : Byte) (f : Flags) :
    (daaA a f).1.toNat =
      (if f.nf = true then a.toNat + 256 - (daaCorrection a f).toNat
        else a.toNat + (daaCorrection a f).toNat) % 256 := by
  have hres : (daaA a f).1 = if f.nf then a - daaCorrection a f else a + daaCorrection a f := rfl
  have := (daaCorrection a f).isLt
  rw [hres]
  split
  · rw [BitVec.toNat_sub]
    omega
  · exact BitVec.toNat_add ..

theorem daaA_cf_iff (a : Byte) (f : Flags) : (daaA a f).2.cf = true ↔ f.cf = true ∨ 0x99 < a.toNat := by
  simp only [daaA, Bool.or_eq_true, decide_eq_true_iff]

theorem daaA_hf_iff (a : Byte) (f : Flags) :
    (daaA a f).2.hf = true ↔ if f.nf = true then f.hf = true ∧ a.toNat % 16 < 6 else 9 < a.toNat % 16 := by
  simp only [daaA, lowDigit_toNat]
  split <;> simp only [Bool.and_eq_true, decide_eq_true_iff]

theorem parity8_iff_countP (v : Byte) :
    parity8 v = true ↔ ((List.range 8).countP fun k => v.getLsbD k) % 2 = 0 := by
  rw [parity8_eq_countP, beq_iff_eq]

/-- The binary sum of two packed-BCD bytes, corrected by its own half carry and carry, is their decimal sum: the low
correction is due where the sum of the low digits exceeds 9, the high one where the binary sum exceeds 99h. -/
theorem daaA_adcA_bcd {a v : Byte} (f : Flags) (ha : isBcd a = true) (hv : isBcd v = true) :
    let sum := adcA a v f
    let r := daaA sum.1 sum.2
    (isBcd r.1 = true ∧ bcdValue r.1 = (bcdValue a + (bcdValue v + bitVal f.cf)) % 100) ∧
      (r.2.cf = true ↔ 100 ≤ bcdValue a + (bcdValue v + bitVal f.cf)) := by
  intro sum r
  obtain ⟨x, y, hx, hy, hxy, hax⟩ := isBcd_and_bcdValue_iff.1 ⟨ha, rfl⟩
  obtain ⟨p, q, hp, hq, hpq, hvp⟩ := isBcd_and_bcdValue_iff.1 ⟨hv, rfl⟩
  have hc := bitVal_le_one f.cf
  have hhalf : sum.2.hf = true ↔ 16 ≤ a.toNat % 16 + v.toNat % 16 + bitVal f.cf := add8_h_iff ..
  have hcarry : sum.2.cf = true ↔ 256 ≤ a.toNat + v.toNat + bitVal f.cf := add8_c_iff ..
  have hsum : sum.1.toNat = (a.toNat + v.toNat + bitVal f.cf) % 256 := add8_res_toNat ..
  have hlow : sum.2.hf = true ∨ 9 < sum.1.toNat % 16 ↔ 9 < y + q + bitVal f.cf := by
    rw [hhalf, hsum]
    omega
  have hhigh : sum.2.cf = true ∨ 0x99 < sum.1.toNat ↔ 0x99 < 16 * (x + p) + (y + q + bitVal f.cf) := by
    rw [hcarry, hsum]
    omega
  have hr : r.1.toNat = (sum.1.toNat + (daaCorrection sum.1 sum.2).toNat) % 256 := daaA_res_toNat ..
  simp only [daaCorrection_toNat, hlow, hhigh] at hr
  rw [isBcd_and_bcdValue_iff, daaA_cf_iff, hhigh, hax, hvp]
  refine ⟨?_, by omega⟩
  split at hr <;> split at hr
  · exact ⟨x + p - 9, y + q + bitVal f.cf - 10, by omega⟩
  · exact ⟨x + p + 1, y + q + bitVal f.cf - 10, by omega⟩
  · exact ⟨x + p - 10, y + q + bitVal f.cf, by omega⟩
  · exact ⟨x + p, y + q + bitVal f.cf, by omega⟩

/-- The binary difference of two packed-BCD bytes, corrected by its own half borrow and borrow, is their decimal
difference: each correction is due exactly where its digits borrow. -/
theorem daaA_sbcA_bcd {a v : Byte} (f : Flags) (ha : isBcd a = true) (hv : isBcd v = true) :
    let diff := sbcA a v f
    let r := daaA diff.1 diff.2
    (isBcd r.1 = true ∧ bcdValue r.1 = (bcdValue a + 100 - (bcdValue v + bitVal f.cf)) % 100) ∧
      (r.2.cf = true ↔ bcdValue a < bcdValue v + bitVal f.cf) := by
  intro diff r
  obtain ⟨x, y, hx, hy, hxy, hax⟩ := isBcd_and_bcdValue_iff.1 ⟨ha, rfl⟩
  obtain ⟨p, q, hp, hq, hpq, hvp⟩ := isBcd_and_bcdValue_iff.1 ⟨hv, rfl⟩
  have hc := bitVal_le_one f.cf
  have hhalf : diff.2.hf = true ↔ a.toNat % 16 < v.toNat % 16 + bitVal f.cf := sub8_h_iff ..
  have hborrow : diff.2.cf = true ↔ a.toNat < v.toNat + bitVal f.cf := sub8_c_iff ..
  have hdiff : diff.1.toNat = (a.toNat + 512 - v.toNat - bitVal f.cf) % 256 := sub8_res_toNat ..
  have hlow : diff.2.hf = true ∨ 9 < diff.1.toNat % 16 ↔ y < q + bitVal f.cf := by
    rw [hhalf, hdiff]
    omega
  have hhigh : diff.2.cf = true ∨ 0x99 < diff.1.toNat ↔ 16 * x + y < 16 * p + q + bitVal f.cf := by
    rw [hborrow, hdiff]
    omega
  have hr : r.1.toNat = (diff.1.toNat + 256 - (daaCorrection diff.1 diff.2).toNat) % 256 := daaA_res_toNat ..
  simp only [daaCorrection_toNat, hlow, hhigh] at hr
  rw [isBcd_and_bcdValue_iff, daaA_cf_iff, hhigh, hax, hvp]
  refine ⟨?_, by omega⟩
  split at hr <;> split at hr
  · exact ⟨x + 9 - p, y + 10 - q - bitVal f.cf, by omega⟩
  · exact ⟨x - p - 1, y + 10 - q - bitVal f.cf, by omega⟩
  · exact ⟨x + 10 - p, y - q - bitVal f.cf, by omega⟩
  · exact ⟨x - p, y - q - bitVal f.cf, by omega⟩

/-! ## The shapes of the rows -/

/-- Where its operand can be read, a combineA ends with what its operation gives in A and in the flags. -/
theorem combineA_of_canRead {s : State} {src : Source} (hread : s.canRead src = true)
    {op : Byte → Byte → Flags → Byte × Flags} {r : Byte × Flags}
    (hop : op s.regs.a (s.byteOf src) s.flags = r) (len : Word) :
    combineA op src len s = .next (((s.setA r.1).setFlags r.2).retire len) := by
  subst hop
  rw [combineA_next]
  cases src with
  | place p => exact ⟨State.canRead_place.1 hread, by rw [State.byteOf_place]⟩
  | imm n => rfl

theorem changeA_eq (op : Byte → Flags → Byte × Flags) (len : Word) (s : State) :
    changeA op len s =
      .next (((s.setA (op s.regs.a s.flags).1).setFlags (op s.regs.a s.flags).2).retire len) :=
  changeA_next.2 rfl

theorem modifyByte_answersPlace {s : State} {p : Place} (hread : s.canRead (.place p) = true)
    (op : Byte → Flags → Byte × Flags) (len : Word) :
    s.AnswersPlace p (op (s.byteOf (.place p)) s.flags).1 (op (s.byteOf (.place p)) s.flags).2 len
      (modifyByte op p len s) := by
  rw [modifyByte_next.2 ⟨State.canRead_place.1 hread, rfl⟩, State.byteOf_place]
  exact answersPlace_finish s p _ _ len

/-! ## The rows -/

/-- Settles O38: each row is a combineA of add8 with its carry in. -/
theorem addResult : Obligations.AddResult := by
  intro s r n d e he hread
  obtain ⟨op, hexec, hop⟩ : ∃ op, exec e.1 s = combineA op e.2.1 e.2.2.1 s ∧
      ∀ v, op s.regs.a v s.flags =
        ((add8 s.regs.a v e.2.2.2).res, arithFlags (add8 s.regs.a v e.2.2.2) false) := by
    simp only [List.mem_cons, List.not_mem_nil, or_false] at he
    rcases he with rfl | rfl | rfl | rfl | rfl | rfl | rfl | rfl | rfl | rfl
    iterate 5 exact ⟨addA, rfl, fun _ => rfl⟩
    iterate 5 exact ⟨adcA, rfl, fun _ => rfl⟩
  refine ⟨_, hexec.trans (combineA_of_canRead hread (hop _) e.2.2.1), rfl, ?_⟩
  exact ⟨add8_res_toNat .., add8_c_iff .., add8_h_iff .., add8_v_iff .., add8_z_iff .., add8_s_iff .., rfl⟩

/-- Settles O39: each row is a combineA of sub8 with its borrow in. -/
theorem subtractResult : Obligations.SubtractResult := by
  intro s r n d e he hread
  obtain ⟨op, hexec, hop⟩ : ∃ op, exec e.1 s = combineA op e.2.1 e.2.2.1 s ∧
      ∀ v, op s.regs.a v s.flags =
        ((sub8 s.regs.a v e.2.2.2).res, arithFlags (sub8 s.regs.a v e.2.2.2) true) := by
    simp only [List.mem_cons, List.not_mem_nil, or_false] at he
    rcases he with rfl | rfl | rfl | rfl | rfl | rfl | rfl | rfl | rfl | rfl
    iterate 5 exact ⟨subA, rfl, fun _ => rfl⟩
    iterate 5 exact ⟨sbcA, rfl, fun _ => rfl⟩
  refine ⟨_, hexec.trans (combineA_of_canRead hread (hop _) e.2.2.1), rfl, ?_⟩
  exact ⟨sub8_res_toNat .., sub8_c_iff .., sub8_h_iff .., sub8_v_iff .., sub8_z_iff .., sub8_s_iff .., rfl⟩

/-- Settles O40: each row is a combineA that keeps A and takes the flags of a subtraction without borrow in. -/
theorem compareResult : Obligations.CompareResult := by
  intro s r n d e he hread
  have hexec : exec e.1 s = combineA cpA e.2.1 e.2.2 s := by
    simp only [List.mem_cons, List.not_mem_nil, or_false] at he
    rcases he with rfl | rfl | rfl | rfl | rfl <;> rfl
  have hzero := sub8_z_iff s.regs.a (s.byteOf e.2.1) false
  have hsign := sub8_s_iff s.regs.a (s.byteOf e.2.1) false
  have hover := sub8_v_iff s.regs.a (s.byteOf e.2.1) false
  rw [sub8_res_of_no_borrow] at hzero hsign
  simp only [bitVal, Bool.false_eq_true, if_false, Int.natCast_zero, Int.sub_zero] at hover
  refine ⟨_, hexec.trans (combineA_of_canRead hread rfl e.2.2), ?_⟩
  exact ⟨hzero.trans sub_eq_zero, sub8_c_iff .., sub8_h_iff .., hover, hsign, rfl⟩

/-- Settles O41: each row is a combineA of a bitwise operation, whose flags are logicFlags of its result. -/
theorem logicResult : Obligations.LogicResult := by
  intro s r n d e he hread
  obtain ⟨op, bitwise, hexec, hop, hbits⟩ : ∃ op, ∃ bitwise : Byte → Byte → Byte,
      exec e.1 s = combineA op e.2.1 e.2.2.1 s ∧
      (∀ a v f, op a v f = (bitwise a v, logicFlags (bitwise a v))) ∧
      ∀ a v k, (bitwise a v).getLsbD k = e.2.2.2 (a.getLsbD k) (v.getLsbD k) := by
    simp only [List.mem_cons, List.not_mem_nil, or_false] at he
    rcases he with rfl | rfl | rfl | rfl | rfl | rfl | rfl | rfl | rfl | rfl | rfl | rfl | rfl | rfl | rfl
    iterate 5 exact ⟨andA, (· &&& ·), rfl, fun _ _ _ => rfl, fun _ _ _ => BitVec.getLsbD_and⟩
    iterate 5 exact ⟨orA, (· ||| ·), rfl, fun _ _ _ => rfl, fun _ _ _ => BitVec.getLsbD_or⟩
    iterate 5 exact ⟨xorA, (· ^^^ ·), rfl, fun _ _ _ => rfl, fun _ _ _ => BitVec.getLsbD_xor⟩
  refine ⟨_, hexec.trans (combineA_of_canRead hread (hop ..) e.2.2.1), rfl, fun k _ => hbits .., ?_⟩
  exact ⟨bit7_iff_neg _, beq_iff_eq, parity8_iff_countP _, rfl, rfl, rfl⟩

/-- Settles O42: each row is a modifyByte of incByte or decByte at its place. -/
theorem incDecByteResult : Obligations.IncDecByteResult := by
  intro s r d p _ hread v
  refine ⟨fun e he hp => ?_, fun e he hp => ?_⟩
  · have hexec : exec e.1 s = modifyByte incByte e.2.1 e.2.2 s := by
      simp only [List.mem_cons, List.not_mem_nil, or_false] at he
      rcases he with rfl | rfl | rfl | rfl <;> rfl
    obtain ⟨hs, hz, hh, hv⟩ := incByte_flags_iff v s.flags
    have hanswers := modifyByte_answersPlace hread incByte e.2.2
    rw [incByte_res, ← hp, ← hexec, hp] at hanswers
    exact ⟨_, hanswers, hs, hz, hh, hv, rfl, rfl⟩
  · have hexec : exec e.1 s = modifyByte decByte e.2.1 e.2.2 s := by
      simp only [List.mem_cons, List.not_mem_nil, or_false] at he
      rcases he with rfl | rfl | rfl | rfl <;> rfl
    obtain ⟨hs, hz, hh, hv⟩ := decByte_flags_iff v s.flags
    have hanswers := modifyByte_answersPlace hread decByte e.2.2
    rw [decByte_res, ← hp, ← hexec, hp] at hanswers
    exact ⟨_, hanswers, hs, hz, hh, hv, rfl, rfl⟩

/-- Settles O43: DAA is a changeA, whose correction is a sum of two digits. -/
theorem daaResult : Obligations.DaaResult := by
  intro s a low high
  have hres := daaA_res_toNat s.regs.a s.flags
  rw [daaCorrection_toNat] at hres
  refine ⟨_, changeA_eq daaA 1 s, rfl, hres, daaA_cf_iff .., rfl, daaA_hf_iff .., ?_⟩
  exact ⟨bit7_iff_neg _, beq_iff_eq, parity8_iff_countP _⟩

/-- Settles O44: ADC and SBC are a combineA, DAA the changeA after it, and on the digits they are decimal arithmetic. -/
theorem daaMakesDecimalArithmetic : Obligations.DaaMakesDecimalArithmetic := by
  intro s r n d e he hread ha hv
  obtain ⟨len, hadc, hsbc⟩ : ∃ len, exec e.1 s = combineA adcA e.2.2 len s ∧
      exec e.2.1 s = combineA sbcA e.2.2 len s := by
    simp only [List.mem_cons, List.not_mem_nil, or_false] at he
    rcases he with rfl | rfl | rfl | rfl | rfl <;> exact ⟨_, rfl, rfl⟩
  obtain ⟨⟨haddBcd, haddValue⟩, haddCarry⟩ := daaA_adcA_bcd s.flags ha hv
  obtain ⟨⟨hsubBcd, hsubValue⟩, hsubBorrow⟩ := daaA_sbcA_bcd s.flags ha hv
  refine ⟨⟨_, _, hadc.trans (combineA_of_canRead hread rfl len), changeA_eq daaA 1 _, ?_⟩,
    ⟨_, _, hsbc.trans (combineA_of_canRead hread rfl len), changeA_eq daaA 1 _, ?_⟩⟩
  · exact ⟨haddBcd, haddValue, haddCarry⟩
  · exact ⟨hsubBcd, hsubValue, hsubBorrow⟩

/-- Settles O45: both are a changeA; the flags of NEG are those of the subtraction from 0. -/
theorem complementAndNegate : Obligations.ComplementAndNegate := by
  intro s
  have hcpl : s.regs.a ^^^ 0xFF = ~~~s.regs.a := BitVec.xor_allOnes
  obtain ⟨hs, hz, hh, hv, hc⟩ := negA_flags_iff s.regs.a s.flags
  refine ⟨?_, (negA s.regs.a s.flags).2, ?_, hc, hv, hh, rfl, hz, hs⟩
  · rw [← hcpl]
    exact changeA_eq cplA 1 s
  · rw [← negA_res s.regs.a s.flags]
    exact changeA_eq negA 2 s

end Sys2Proof.Machine
end

section
/-! PROOF. The 16-bit arithmetic (43_arith16.md R240 to R254): what add16 and sub16 compute, said of the words as
numbers; then each row writes one register with such a result, or counts it up or down without a flag. -/

namespace Sys2Proof.Machine

/-! ## Words and their sign as numbers -/

theorem toInt_word (w : Word) : w.toInt = if w.toNat < 32768 then (w.toNat : Int) else w.toNat - 65536 := by
  rw [BitVec.toInt_eq_toNat_cond]
  split <;> split <;> omega

theorem bit15_eq_decide_neg (w : Word) : w.getLsbD 15 = decide (w.toInt < 0) := by
  rw [← BitVec.msb_eq_toInt, BitVec.msb_eq_getLsbD_last]

theorem bit15_iff_neg (w : Word) : w.getLsbD 15 = true ↔ w.toInt < 0 := by
  rw [bit15_eq_decide_neg, decide_eq_true_iff]

theorem bit15_eq_decide_le (w : Word) : w.getLsbD 15 = decide (32768 ≤ w.toNat) :=
  (BitVec.msb_eq_getLsbD_last w).symm.trans (BitVec.msb_eq_decide w)

theorem lowByte_toNat (w : Word) : (lowByte w).toNat = w.toNat % 256 := by
  simp only [lowByte, BitVec.extractLsb'_toNat, Nat.shiftRight_zero]

theorem highByte_toNat (w : Word) : (highByte w).toNat = w.toNat / 256 := by
  have := w.isLt
  simp only [highByte, BitVec.extractLsb'_toNat, Nat.shiftRight_eq_div_pow]
  omega

/-! ## Addition (43_arith16.md R240) -/

theorem add16_res_toNat (a b : Word) (c : Bool) :
    (add16 a b c).res.toNat = (a.toNat + b.toNat + bitVal c) % 65536 := BitVec.toNat_ofNat ..

/-- Without a carry in, the result is the sum of the words. -/
theorem add16_res_of_no_carry (a b : Word) : (add16 a b false).res = a + b := by
  apply BitVec.eq_of_toNat_eq
  exact (add16_res_toNat a b false).trans (BitVec.toNat_add ..).symm

theorem add16_c_iff (a b : Word) (c : Bool) : (add16 a b c).c = true ↔ 65536 ≤ a.toNat + b.toNat + bitVal c :=
  decide_eq_true_iff

theorem add16_h_iff (a b : Word) (c : Bool) :
    (add16 a b c).h = true ↔ 4096 ≤ a.toNat % 4096 + b.toNat % 4096 + bitVal c := decide_eq_true_iff

/-- The carry out of bit 11 is the half carry of the high bytes, added with the carry of the low bytes. -/
theorem add16_h_iff_bytes (a b : Word) :
    (add16 a b false).h = true ↔
      16 ≤ (highByte a).toNat % 16 + (highByte b).toNat % 16 + ((lowByte a).toNat + (lowByte b).toNat) / 256 := by
  have hnone : bitVal false = 0 := rfl
  rw [add16_h_iff, hnone, highByte_toNat, highByte_toNat, lowByte_toNat, lowByte_toNat]
  omega

theorem add16_z_iff (a b : Word) (c : Bool) : (add16 a b c).z = true ↔ (add16 a b c).res = 0 := beq_iff_eq

theorem add16_s_iff (a b : Word) (c : Bool) : (add16 a b c).s = true ↔ (add16 a b c).res.toInt < 0 :=
  bit15_iff_neg _

/-- Operands of one sign and a result of the other: exactly where the signed sum leaves -32768 to 32767. -/
theorem add16_v_iff (a b : Word) (c : Bool) :
    (add16 a b c).v = true ↔ a.toInt + b.toInt + bitVal c < -32768 ∨ 32767 < a.toInt + b.toInt + bitVal c := by
  have hsigns : (add16 a b c).v = true ↔
      (32768 ≤ a.toNat ↔ 32768 ≤ b.toNat) ∧ ¬ (32768 ≤ (add16 a b c).res.toNat ↔ 32768 ≤ a.toNat) := by
    change (a.getLsbD 15 == b.getLsbD 15 && (add16 a b c).res.getLsbD 15 != a.getLsbD 15) = true ↔ _
    simp only [bit15_eq_decide_le, Bool.and_eq_true, beq_iff_eq, bne_iff_ne, ne_eq, decide_eq_decide]
  rw [hsigns, add16_res_toNat, toInt_word, toInt_word]
  have := a.isLt
  have := b.isLt
  have := bitVal_le_one c
  split <;> split <;> omega

/-! ## Subtraction (43_arith16.md R241) -/

theorem sub16_res_toNat (a b : Word) (c : Bool) :
    (sub16 a b c).res.toNat = (a.toNat + 131072 - b.toNat - bitVal c) % 65536 := by
  have hres : (sub16 a b c).res = BitVec.ofInt 16 ((a.toNat : Int) - b.toNat - bitVal c) := rfl
  rw [hres, BitVec.toNat_ofInt]
  have := b.isLt
  have := bitVal_le_one c
  omega

theorem sub16_c_iff (a b : Word) (c : Bool) : (sub16 a b c).c = true ↔ a.toNat < b.toNat + bitVal c := by
  have hc : (sub16 a b c).c = true ↔ (a.toNat : Int) - b.toNat - bitVal c < 0 := decide_eq_true_iff
  rw [hc]
  omega

theorem sub16_h_iff (a b : Word) (c : Bool) :
    (sub16 a b c).h = true ↔ a.toNat % 4096 < b.toNat % 4096 + bitVal c := by
  have hh : (sub16 a b c).h = true ↔
      ((a.toNat % 4096 : Nat) : Int) - (b.toNat % 4096 : Nat) - bitVal c < 0 := decide_eq_true_iff
  rw [hh]
  omega

theorem sub16_z_iff (a b : Word) (c : Bool) : (sub16 a b c).z = true ↔ (sub16 a b c).res = 0 := beq_iff_eq

theorem sub16_s_iff (a b : Word) (c : Bool) : (sub16 a b c).s = true ↔ (sub16 a b c).res.toInt < 0 :=
  bit15_iff_neg _

/-- Operands of different signs and a result of the subtrahend's: exactly where the signed difference leaves -32768 to
32767. -/
theorem sub16_v_iff (a b : Word) (c : Bool) :
    (sub16 a b c).v = true ↔ a.toInt - b.toInt - bitVal c < -32768 ∨ 32767 < a.toInt - b.toInt - bitVal c := by
  have hsigns : (sub16 a b c).v = true ↔
      ¬ (32768 ≤ a.toNat ↔ 32768 ≤ b.toNat) ∧ ¬ (32768 ≤ (sub16 a b c).res.toNat ↔ 32768 ≤ a.toNat) := by
    change (a.getLsbD 15 != b.getLsbD 15 && (sub16 a b c).res.getLsbD 15 != a.getLsbD 15) = true ↔ _
    simp only [bit15_eq_decide_le, Bool.and_eq_true, bne_iff_ne, ne_eq, decide_eq_decide]
  rw [hsigns, sub16_res_toNat, toInt_word, toInt_word]
  have := a.isLt
  have := b.isLt
  have := bitVal_le_one c
  split <;> split <;> omega

/-! ## The rows -/

theorem addReg16_answersReg16 (s : State) (dst src : Reg16) (len : Word) :
    s.AnswersReg16 dst (s.reg16 dst + s.reg16 src)
      (addWordFlags (add16 (s.reg16 dst) (s.reg16 src) false) s.flags) len (addReg16 dst src len s) := by
  rw [← add16_res_of_no_carry]
  exact answersReg16_finish s dst _ _ len

/-- Settles O46: each row is an addReg16 of its two registers. -/
theorem addWordResult : Obligations.AddWordResult := by
  intro s ss pp rr e he a b lowCarry
  have hexec : exec e.1 s = addReg16 e.2.1 e.2.2.1 e.2.2.2 s := by
    simp only [List.mem_cons, List.not_mem_nil, or_false] at he
    rcases he with rfl | rfl | rfl <;> rfl
  rw [hexec]
  exact ⟨_, addReg16_answersReg16 s e.2.1 e.2.2.1 e.2.2.2, add16_c_iff a b false, add16_h_iff_bytes a b,
    rfl, rfl, rfl, rfl⟩

/-- Settles O47: HL and all six flags are those of add16 or sub16 with C as carry or borrow in. -/
theorem adcSbcWordResult : Obligations.AdcSbcWordResult := by
  intro s ss a b c
  constructor
  · exact ⟨_, _, answersReg16_finish s .hl (add16 a b s.flags.cf).res
      (arithWordFlags (add16 a b s.flags.cf) false) 2, add16_res_toNat .., add16_c_iff .., add16_h_iff ..,
      add16_v_iff .., add16_z_iff .., add16_s_iff .., rfl⟩
  · exact ⟨_, _, answersReg16_finish s .hl (sub16 a b s.flags.cf).res
      (arithWordFlags (sub16 a b s.flags.cf) true) 2, sub16_res_toNat .., sub16_c_iff .., sub16_h_iff ..,
      sub16_v_iff .., sub16_z_iff .., sub16_s_iff .., rfl⟩

/-- Settles O48: each row assigns its register the next or the previous value. -/
theorem incDecWordResult : Obligations.IncDecWordResult := by
  intro s ss
  refine ⟨fun e he => ?_, fun e he => ?_⟩
  · have hexec : exec e.1 s = assign16 e.2.1 (s.reg16 e.2.1 + 1) e.2.2 s := by
      simp only [List.mem_cons, List.not_mem_nil, or_false] at he
      rcases he with rfl | rfl | rfl <;> rfl
    rw [hexec]
    exact assign16_answersReg16 s e.2.1 _ e.2.2
  · have hexec : exec e.1 s = assign16 e.2.1 (s.reg16 e.2.1 - 1) e.2.2 s := by
      simp only [List.mem_cons, List.not_mem_nil, or_false] at he
      rcases he with rfl | rfl | rfl <;> rfl
    rw [hexec]
    exact assign16_answersReg16 s e.2.1 _ e.2.2

end Sys2Proof.Machine
end

section
/-! PROOF. The control rows (44_cpu_control.md R260 to R265): what each leaves, said with the model's own ends of an
instruction. No row accesses memory or a port, so each completes in every state. -/

namespace Sys2Proof.Machine

/-- CCF uses up one undetermined bit, for H (log 6). -/
theorem exec_ccf (s : State) :
    exec .ccf s = .next ((State.setFlags { s with draws := s.draws + 1 }
      { s.flags with hf := Config.any1 s.draws, nf := false, cf := !s.flags.cf }).retire 1) := rfl

theorem exec_scf (s : State) :
    exec .scf s = .next ((s.setFlags { s.flags with hf := false, nf := false, cf := true }).retire 1) := rfl

theorem exec_nop (s : State) : exec .nop s = .next (s.retire 1) := rfl

theorem exec_halt (s : State) : exec .halt s = .next { s.retire 1 with halted := true } := rfl

theorem exec_di (s : State) : exec .di s = .next { s.retireInhibited 1 with iff := false } := rfl

theorem exec_ei (s : State) : exec .ei s = .next { s.retireInhibited 1 with iff := true } := rfl

/-- Settles O49: the six rows one by one; the free H of CCF is the bit the configuration answers next. -/
theorem controlResult : Obligations.ControlResult := by
  intro s
  have hccf : ∃ (h : Bool) (draws : Nat), exec .ccf s = .next { s with
      flags := { s.flags with hf := h, nf := false, cf := !s.flags.cf }
      pc := s.pc + 1, inhibit := false, draws := draws } :=
    ⟨Config.any1 s.draws, s.draws + 1, exec_ccf s⟩
  exact ⟨hccf, exec_scf s, exec_nop s, exec_halt s, exec_di s, exec_ei s⟩

end Sys2Proof.Machine
end

section
/-! PROOF. The jumps (45_jump.md R270 to R275): each row is a jumpTo, the conditional one to the target or to the next
instruction, so each completes in every state. -/

namespace Sys2Proof.Machine

theorem exec_jp (nn : Word) (s : State) : exec (.jp nn) s = .next (s.jumpTo nn) := rfl

theorem exec_jpHL (s : State) : exec .jpHL s = .next (s.jumpTo (word s.regs.h s.regs.l)) := rfl

theorem exec_jpIX (s : State) : exec .jpIX s = .next (s.jumpTo s.ix) := rfl

theorem exec_jpIY (s : State) : exec .jpIY s = .next (s.jumpTo s.iy) := rfl

/-- Not jumping is jumping past the instruction's three bytes. -/
theorem exec_jpCond (cc : Cond) (nn : Word) (s : State) :
    exec (.jpCond cc nn) s = .next (s.jumpTo (if s.flags.holds cc then nn else s.pc + 3)) := by
  have harm : exec (.jpCond cc nn) s =
      if s.flags.holds cc then .next (s.jumpTo nn) else .next (s.jumpTo (s.pc + 3)) := rfl
  rw [harm]
  split <;> rfl

/-- Settles O50: the unconditional rows one by one; for JP cc the listed truth value is what `Flags.holds` answers. -/
theorem jumpResult : Obligations.JumpResult := by
  intro s nn
  refine ⟨fun e he => ?_, fun e he => ?_⟩
  · simp only [List.mem_cons, List.not_mem_nil, or_false] at he
    rcases he with rfl | rfl | rfl | rfl
    · exact exec_jp nn s
    · exact exec_jpHL s
    · exact exec_jpIX s
    · exact exec_jpIY s
  · have hcond : e.2 = s.flags.holds e.1 := by
      simp only [List.mem_cons, List.not_mem_nil, or_false] at he
      rcases he with rfl | rfl | rfl | rfl | rfl | rfl | rfl | rfl <;> rfl
    rw [hcond]
    exact exec_jpCond e.1 nn s

end Sys2Proof.Machine
end

section
/-! PROOF. The calls and returns (46_call_return.md R280 to R285): each taken row is a callTo or a returnFromCall, each
row not taken only advances pc, and a returnFromCall undoes a callTo on a stack in RAM. -/

namespace Sys2Proof.Machine

/-! ## The rows as callTo and returnFromCall -/

theorem exec_call (nn : Word) (s : State) : exec (.call nn) s = callTo nn 3 s := rfl

theorem exec_rst (p : Word) (s : State) : exec (.rst p) s = callTo p 1 s := rfl

theorem exec_callCond (cc : Cond) (nn : Word) (s : State) :
    exec (.callCond cc nn) s = if s.flags.holds cc then callTo nn 3 s else s.finish 3 := rfl

theorem exec_callCond_taken {s : State} {cc : Cond} (h : s.flags.holds cc = true) (nn : Word) :
    exec (.callCond cc nn) s = callTo nn 3 s := by
  rw [exec_callCond, if_pos h]

theorem exec_callCond_not_taken {s : State} {cc : Cond} (h : s.flags.holds cc = false) (nn : Word) :
    exec (.callCond cc nn) s = s.finish 3 := by
  rw [exec_callCond, if_neg (Bool.eq_false_iff.1 h)]

theorem exec_ret (s : State) : exec .ret s = s.returnFromCall := rfl

theorem exec_retCond (cc : Cond) (s : State) :
    exec (.retCond cc) s = if s.flags.holds cc then s.returnFromCall else s.finish 1 := rfl

theorem exec_retCond_taken {s : State} {cc : Cond} (h : s.flags.holds cc = true) :
    exec (.retCond cc) s = s.returnFromCall := by
  rw [exec_retCond, if_pos h]

theorem exec_retCond_not_taken {s : State} {cc : Cond} (h : s.flags.holds cc = false) :
    exec (.retCond cc) s = s.finish 1 := by
  rw [exec_retCond, if_neg (Bool.eq_false_iff.1 h)]

/-! ## What a call and a return answer -/

/-- The return address goes to the stack high byte first, and pc takes the target (46_call_return.md R280, R281). -/
theorem callTo_answersStoring {s : State} (h1 : s.canAccess (s.sp - 1) = true) (h2 : s.canAccess (s.sp - 2) = true)
    (target len : Word) :
    s.AnswersStoring [(s.sp - 1, highByte (s.pc + len)), (s.sp - 2, lowByte (s.pc + len))]
      (fun mem => { s with mem := mem, sp := s.sp - 2, pc := target, inhibit := false }) (callTo target len s) := by
  refine answersStoring_poke_poke ?_
  rw [callTo_next.2 ⟨h1, h2, rfl⟩, State.pushed_eq]
  rfl

theorem returnFromCall_of_access {s : State} (h1 : s.canAccess s.sp = true) (h2 : s.canAccess (s.sp + 1) = true) :
    s.returnFromCall = .next { s with
      pc := word (s.peek (s.sp + 1)) (s.peek s.sp), sp := s.sp + 2, inhibit := false } := by
  rw [returnFromCall_next.2 ⟨h1, h2, rfl⟩, succ_succ]
  rfl

/-- Going to a target is moving past as many bytes as it lies ahead, mod 2^16. -/
theorem State.jumpTo_eq_retire (s : State) (target : Word) : s.jumpTo target = s.retire (target - s.pc) := by
  have hpc : s.pc + (target - s.pc) = target := by bv_omega
  rw [State.retire, hpc, State.jumpTo]

/-- A return directly after a word was pushed on RAM goes to that word, with SP as before the push. -/
theorem returnFromCall_after_push {s : State} (h1 : s.kindAt (s.sp - 1) = .ram) (h2 : s.kindAt (s.sp - 2) = .ram)
    (w target : Word) :
    ((s.pushed w).jumpTo target).returnFromCall =
      .next { s with mem := (s.pushed w).mem, pc := w, inhibit := false } := by
  rw [State.jumpTo_eq_retire, State.returnFromCall, State.pop_after_push h1 h2, State.pushed_eq]
  rfl

theorem returnFromCall_undoes_callTo {s : State} (h1 : s.kindAt (s.sp - 1) = .ram)
    (h2 : s.kindAt (s.sp - 2) = .ram) (target len : Word) :
    ∃ t u, callTo target len s = .next t ∧ t.returnFromCall = .next u ∧
      u = { s with mem := t.mem, pc := s.pc + len, inhibit := false } :=
  ⟨_, _, callTo_next.2 ⟨State.canAccess_of_ram h1, State.canAccess_of_ram h2, rfl⟩,
    returnFromCall_after_push h1 h2 (s.pc + len) target, rfl⟩

/-! ## The statements -/

/-- Settles O51: each taken row is a callTo of its target and length; CALL cc not taken only finishes. -/
theorem callAndRestartResult : Obligations.CallAndRestartResult := by
  intro s nn cc p
  refine ⟨fun h1 h2 e he htaken => ?_, fun hcc => exec_callCond_not_taken hcc nn⟩
  obtain ⟨len, hexec, hreturn⟩ : ∃ len, exec e.1 s = callTo e.2.2.1 len s ∧ e.2.2.2 = s.pc + len := by
    simp only [List.mem_cons, List.not_mem_nil, or_false] at he
    rcases he with rfl | rfl | rfl
    · exact ⟨3, exec_call nn s, rfl⟩
    · exact ⟨3, exec_callCond_taken htaken nn, rfl⟩
    · exact ⟨1, exec_rst _ s, rfl⟩
  rw [hexec, hreturn]
  exact callTo_answersStoring h1 h2 e.2.2.1 len

/-- Settles O53: each row is a callTo, and the word RET pops is the one it pushed. -/
theorem callThenRetReturns : Obligations.CallThenRetReturns := by
  intro s nn h1 h2 e he
  obtain ⟨len, hexec, hreturn⟩ : ∃ len, exec e.1 s = callTo nn len s ∧ e.2 = s.pc + len := by
    simp only [List.mem_cons, List.not_mem_nil, or_false] at he
    rcases he with rfl | rfl
    · exact ⟨3, exec_call nn s, rfl⟩
    · exact ⟨1, exec_rst nn s, rfl⟩
  simp only [hexec, hreturn, exec_ret]
  exact returnFromCall_undoes_callTo h1 h2 nn len

/-- Settles O52: both taken rows are a returnFromCall; RET cc not taken only finishes. -/
theorem returnResult : Obligations.ReturnResult := by
  intro s cc
  refine ⟨fun h1 h2 e he htaken => ?_, fun hcc => exec_retCond_not_taken hcc⟩
  have hexec : exec e.1 s = s.returnFromCall := by
    simp only [List.mem_cons, List.not_mem_nil, or_false] at he
    rcases he with rfl | rfl
    · exact exec_ret s
    · exact exec_retCond_taken htaken
  rw [hexec]
  exact returnFromCall_of_access h1 h2

end Sys2Proof.Machine
end

section
/-! PROOF. The shifts and rotates (47_shift_rotate.md R290 to R327): what the helpers rlc8 to srl8 and the digit
rotations compute, said of the values as numbers; then each row is a changeA, a modifyByte or a rotateDigits of one of
them. -/

namespace Sys2Proof.Machine

/-! ## Joined bits as numbers -/

theorem append_eq_ofNat {m n : Nat} (hi : BitVec m) (lo : BitVec n) :
    hi ++ lo = BitVec.ofNat (m + n) (2 ^ n * hi.toNat + lo.toNat) := by
  have hvalue : (hi ++ lo).toNat = 2 ^ n * hi.toNat + lo.toNat := by
    rw [BitVec.toNat_append, ← Nat.shiftLeft_add_eq_or_of_lt lo.isLt, Nat.shiftLeft_eq, Nat.mul_comm]
  rw [← hvalue, BitVec.ofNat_toNat, BitVec.setWidth_eq]

theorem digits_eq_ofNat (hi lo : BitVec 4) : digits hi lo = BitVec.ofNat 8 (16 * hi.toNat + lo.toNat) :=
  append_eq_ofNat hi lo

theorem bit7_eq_div (v : Byte) : bit7 v = (v.toNat / 128 == 1) := by
  have := v.isLt
  rw [bit7_eq_decide_le, beq_eq_decide, decide_eq_decide]
  omega

theorem bit0_eq_mod (v : Byte) : bit0 v = (v.toNat % 2 == 1) := by
  rw [bit0, BitVec.getLsbD, Nat.testBit_zero, beq_eq_decide]

theorem bitVal_beq_one {n : Nat} (h : n ≤ 1) : bitVal (n == 1) = n := by
  interval_cases n <;> rfl

theorem bitVal_bit7 (v : Byte) : bitVal (bit7 v) = v.toNat / 128 := by
  rw [bit7_eq_div, bitVal_beq_one (by have := v.isLt; omega)]

theorem bitVal_bit0 (v : Byte) : bitVal (bit0 v) = v.toNat % 2 := by
  rw [bit0_eq_mod, bitVal_beq_one (by omega)]

/-! ## One place to the left, one place to the right -/

/-- The bit `c` comes in at bit 0 and bit 7 goes out. -/
theorem shiftLeft_eq (v : Byte) (c : Bool) :
    ((v.extractLsb' 0 7 ++ BitVec.ofBool c, bit7 v) : Byte × Bool) =
      (BitVec.ofNat 8 (2 * v.toNat % 256 + bitVal c), v.toNat / 128 == 1) := by
  have hbits : 2 ^ 1 * (v.extractLsb' 0 7).toNat + (BitVec.ofBool c).toNat = 2 * v.toNat % 256 + bitVal c := by
    rw [BitVec.extractLsb'_toNat, BitVec.toNat_ofBool, Nat.shiftRight_zero, Bool.toNat, Bool.cond_eq_ite, bitVal]
    omega
  rw [append_eq_ofNat, hbits, bit7_eq_div]

/-- The bit `c` comes in at bit 7 and bit 0 goes out. -/
theorem shiftRight_eq (v : Byte) (c : Bool) :
    ((BitVec.ofBool c ++ v.extractLsb' 1 7, bit0 v) : Byte × Bool) =
      (BitVec.ofNat 8 (v.toNat / 2 + 128 * bitVal c), v.toNat % 2 == 1) := by
  have hbits : 2 ^ 7 * (BitVec.ofBool c).toNat + (v.extractLsb' 1 7).toNat = v.toNat / 2 + 128 * bitVal c := by
    have := v.isLt
    rw [BitVec.extractLsb'_toNat, BitVec.toNat_ofBool, Nat.shiftRight_eq_div_pow, Bool.toNat, Bool.cond_eq_ite, bitVal]
    omega
  rw [append_eq_ofNat, hbits, bit0_eq_mod]

theorem rlc8_eq (v : Byte) (c : Bool) :
    rlc8 v c = (BitVec.ofNat 8 (2 * v.toNat % 256 + v.toNat / 128), v.toNat / 128 == 1) :=
  (shiftLeft_eq v (bit7 v)).trans (by rw [bitVal_bit7])

theorem rl8_eq (v : Byte) (c : Bool) :
    rl8 v c = (BitVec.ofNat 8 (2 * v.toNat % 256 + bitVal c), v.toNat / 128 == 1) := shiftLeft_eq v c

theorem sla8_eq (v : Byte) (c : Bool) :
    sla8 v c = (BitVec.ofNat 8 (2 * v.toNat % 256), v.toNat / 128 == 1) := shiftLeft_eq v false

theorem rrc8_eq (v : Byte) (c : Bool) :
    rrc8 v c = (BitVec.ofNat 8 (v.toNat / 2 + 128 * (v.toNat % 2)), v.toNat % 2 == 1) :=
  (shiftRight_eq v (bit0 v)).trans (by rw [bitVal_bit0])

theorem rr8_eq (v : Byte) (c : Bool) :
    rr8 v c = (BitVec.ofNat 8 (v.toNat / 2 + 128 * bitVal c), v.toNat % 2 == 1) := shiftRight_eq v c

theorem sra8_eq (v : Byte) (c : Bool) :
    sra8 v c = (BitVec.ofNat 8 (v.toNat / 2 + 128 * (v.toNat / 128)), v.toNat % 2 == 1) :=
  (shiftRight_eq v (bit7 v)).trans (by rw [bitVal_bit7])

theorem srl8_eq (v : Byte) (c : Bool) :
    srl8 v c = (BitVec.ofNat 8 (v.toNat / 2), v.toNat % 2 == 1) := shiftRight_eq v false

/-! ## The flags of a shift and of an accumulator rotate (47_shift_rotate.md R291) -/

theorem shiftByte_of_shift {shift : Byte → Bool → Byte × Bool} {v res : Byte} {f : Flags} {out : Bool}
    (h : shift v f.cf = (res, out)) :
    shiftByte shift v f =
      (res, { sf := decide (res.toInt < 0), zf := decide (res = 0), hf := false
              pf := ((List.range 8).countP fun k => res.getLsbD k) % 2 == 0, nf := false, cf := out }) := by
  have hflags : shiftByte shift v f = (res, byteFlags res { f with cf := out }) := by
    rw [shiftByte, h]
    rfl
  rw [hflags, byteFlags_eq]

theorem rotateA_of_shift {shift : Byte → Bool → Byte × Bool} {a res : Byte} {f : Flags} {out : Bool}
    (h : shift a f.cf = (res, out)) :
    rotateA shift a f = (res, { f with hf := false, nf := false, cf := out }) := by
  rw [rotateA, h]

/-! ## Digits (47_shift_rotate.md R314, R315) -/

theorem rldDigits_eq (t a : Byte) :
    rldDigits t a = (BitVec.ofNat 8 (16 * (t.toNat % 16) + a.toNat % 16),
      BitVec.ofNat 8 (16 * (a.toNat / 16) + t.toNat / 16)) := by
  simp only [rldDigits, digits_eq_ofNat, lowDigit_toNat, highDigit_toNat]

theorem rrdDigits_eq (t a : Byte) :
    rrdDigits t a = (BitVec.ofNat 8 (16 * (a.toNat % 16) + t.toNat / 16),
      BitVec.ofNat 8 (16 * (a.toNat / 16) + t.toNat % 16)) := by
  simp only [rrdDigits, digits_eq_ofNat, lowDigit_toNat, highDigit_toNat]

/-! ## The shapes of the rows -/

/-- A row in its four operand forms, each a modifyByte of one operation. -/
theorem exec_eq_modifyByte_of_forms {s : State} {r : Reg8} {d : Byte} {op : Byte → Flags → Byte × Flags}
    {onReg onHL onIX onIY : Instr} (hreg : exec onReg s = modifyByte op (.reg r) 2 s)
    (hHL : exec onHL s = modifyByte op (.mem .atHL) 2 s) (hIX : exec onIX s = modifyByte op (.mem (.atIX d)) 4 s)
    (hIY : exec onIY s = modifyByte op (.mem (.atIY d)) 4 s) :
    ∀ q ∈ [(onReg, Place.reg r, (2 : Word)), (onHL, .mem .atHL, 2), (onIX, .mem (.atIX d), 4),
        (onIY, .mem (.atIY d), 4)], exec q.1 s = modifyByte op q.2.1 q.2.2 s := by
  intro q hq
  simp only [List.mem_cons, List.not_mem_nil, or_false] at hq
  rcases hq with rfl | rfl | rfl | rfl
  · exact hreg
  · exact hHL
  · exact hIX
  · exact hIY

/-- Where the byte at HL can be accessed, it takes the first byte of the operation, and A and the flags the second. -/
theorem rotateDigits_answersStoring {s : State} (haccess : s.canAccess (s.address .atHL) = true)
    {op : Byte → Byte → Byte × Byte} {r : Byte × Byte} (hop : op (s.peek (s.address .atHL)) s.regs.a = r) :
    s.AnswersStoring [(s.address .atHL, r.1)]
      (fun mem => { s with
        mem := mem, regs := { s.regs with a := r.2 }, flags := byteFlags r.2 s.flags
        pc := s.pc + 2, inhibit := false })
      (rotateDigits op s) := by
  subst hop
  refine ⟨_, rotateDigits_next.2 ⟨haccess, ?_⟩, fun x => s.peek_poke (s.address .atHL) x _⟩
  rw [s.poke_eq]
  rfl

/-! ## The rows -/

/-- Settles O54: each row is a changeA of the rotate in A, which keeps S, Z and P/V. -/
theorem accumulatorRotateResult : Obligations.AccumulatorRotateResult := by
  intro s a c e he
  obtain ⟨shift, hexec, hshift⟩ : ∃ shift, exec e.1 s = changeA (rotateA shift) 1 s ∧
      shift s.regs.a s.flags.cf = (BitVec.ofNat 8 e.2.1, decide (e.2.2 = 1)) := by
    simp only [List.mem_cons, List.not_mem_nil, or_false] at he
    rcases he with rfl | rfl | rfl | rfl
    · exact ⟨rlc8, rfl, rlc8_eq ..⟩
    · exact ⟨rl8, rfl, rl8_eq ..⟩
    · exact ⟨rrc8, rfl, rrc8_eq ..⟩
    · exact ⟨rr8, rfl, rr8_eq ..⟩
  rw [hexec, changeA_eq, rotateA_of_shift hshift]
  rfl

/-- Settles O55: each row in each form is a modifyByte of its shift. -/
theorem shiftRotateResult : Obligations.ShiftRotateResult := by
  intro s r d inC e he q hq hread
  obtain ⟨shift, hexec, hshift⟩ : ∃ shift, exec q.1 s = modifyByte (shiftByte shift) q.2.1 q.2.2 s ∧
      ∀ v : Byte, shift v s.flags.cf =
        (BitVec.ofNat 8 (e.2.2.2.2 v.toNat).1, (e.2.2.2.2 v.toNat).2 == 1) := by
    simp only [List.mem_cons, List.not_mem_nil, or_false] at he
    rcases he with rfl | rfl | rfl | rfl | rfl | rfl | rfl
    · exact ⟨rlc8, exec_eq_modifyByte_of_forms rfl rfl rfl rfl q hq, fun v => rlc8_eq v _⟩
    · exact ⟨rl8, exec_eq_modifyByte_of_forms rfl rfl rfl rfl q hq, fun v => rl8_eq v _⟩
    · exact ⟨rrc8, exec_eq_modifyByte_of_forms rfl rfl rfl rfl q hq, fun v => rrc8_eq v _⟩
    · exact ⟨rr8, exec_eq_modifyByte_of_forms rfl rfl rfl rfl q hq, fun v => rr8_eq v _⟩
    · exact ⟨sla8, exec_eq_modifyByte_of_forms rfl rfl rfl rfl q hq, fun v => sla8_eq v _⟩
    · exact ⟨sra8, exec_eq_modifyByte_of_forms rfl rfl rfl rfl q hq, fun v => sra8_eq v _⟩
    · exact ⟨srl8, exec_eq_modifyByte_of_forms rfl rfl rfl rfl q hq, fun v => srl8_eq v _⟩
  have hanswers := modifyByte_answersPlace hread (shiftByte shift) q.2.2
  rw [shiftByte_of_shift (hshift _), ← hexec] at hanswers
  exact hanswers

/-- Settles O56: each row is a rotateDigits, and two digits joined are a number of base 16. -/
theorem digitRotateResult : Obligations.DigitRotateResult := by
  intro s haccess t a e he
  obtain ⟨op, hexec, hop⟩ : ∃ op, exec e.1 s = rotateDigits op s ∧
      op (s.peek (s.address .atHL)) s.regs.a = (BitVec.ofNat 8 e.2.1, BitVec.ofNat 8 e.2.2) := by
    simp only [List.mem_cons, List.not_mem_nil, or_false] at he
    rcases he with rfl | rfl
    · exact ⟨rldDigits, rfl, rldDigits_eq ..⟩
    · exact ⟨rrdDigits, rfl, rrdDigits_eq ..⟩
  have hanswers := rotateDigits_answersStoring haccess hop
  rw [byteFlags_eq, ← hexec] at hanswers
  exact hanswers

end Sys2Proof.Machine
end

section
/-! PROOF. The bit instructions (48_bit.md R340 to R352): each BIT row is a testBit, each SET and RES row a modifyByte
of one operation on the bits. -/

namespace Sys2Proof.Machine

/-! ## One bit of a byte -/

theorem bitMask_getLsbD (b : BitIndex) (k : Nat) (hk : k < 8) :
    (bitMask b).getLsbD k = decide (k = b.toNat) := by
  rw [bitMask, BitVec.natCast_eq_ofNat, Nat.one_shiftLeft, BitVec.getLsbD_ofNat, Nat.testBit_two_pow]
  simp [hk, eq_comm]

/-- SET b makes bit b 1 and RES b makes it 0; both keep the other bits (48_bit.md R345, R349). -/
theorem setBit_getLsbD (b : BitIndex) (v : Byte) (f : Flags) (k : Nat) (hk : k < 8) :
    (setBit b v f).1.getLsbD k = if k = b.toNat then true else v.getLsbD k := by
  rw [setBit, BitVec.getLsbD_or, bitMask_getLsbD b k hk]
  split <;> simp [*]

theorem resBit_getLsbD (b : BitIndex) (v : Byte) (f : Flags) (k : Nat) (hk : k < 8) :
    (resBit b v f).1.getLsbD k = if k = b.toNat then false else v.getLsbD k := by
  rw [resBit, BitVec.getLsbD_and, BitVec.getLsbD_not, bitMask_getLsbD b k hk]
  split <;> simp [*]

/-! ## The rows -/

/-- Settles O58: each row is a modifyByte of setBit or resBit, and neither writes a flag. -/
theorem setResBitResult : Obligations.SetResBitResult := by
  intro s b r d e he hread
  obtain ⟨op, hexec, hflags, hbits⟩ : ∃ op : Byte → Flags → Byte × Flags,
      exec e.1 s = modifyByte op e.2.1 e.2.2.1 s ∧ (∀ v f, (op v f).2 = f) ∧
      ∀ v f k, k < 8 → (op v f).1.getLsbD k = if k = b.toNat then e.2.2.2 else v.getLsbD k := by
    simp only [List.mem_cons, List.not_mem_nil, or_false] at he
    rcases he with rfl | rfl | rfl | rfl | rfl | rfl | rfl | rfl
    iterate 4 exact ⟨setBit b, rfl, fun _ _ => rfl, setBit_getLsbD b⟩
    iterate 4 exact ⟨resBit b, rfl, fun _ _ => rfl, resBit_getLsbD b⟩
  have hanswers := modifyByte_answersPlace hread op e.2.2.1
  rw [hflags, ← hexec] at hanswers
  exact ⟨_, hanswers, hbits _ _⟩

/-- Settles O57: each row is a testBit; its two free flags are the bits the configuration answers next (log 6). -/
theorem bitTestResult : Obligations.BitTestResult := by
  intro s b r d e he hread
  have hexec : exec e.1 s = testBit b e.2.1 e.2.2 s := by
    simp only [List.mem_cons, List.not_mem_nil, or_false] at he
    rcases he with rfl | rfl | rfl | rfl <;> rfl
  rw [hexec, testBit_next.2 ⟨State.canRead_place.1 hread, rfl⟩, State.byteOf_place]
  exact ⟨Config.any1 s.draws, Config.any1 (s.draws + 1), s.draws + 1 + 1, rfl⟩

end Sys2Proof.Machine
end

section
/-! PROOF. How an instruction ends (60_exceptions.md R400, R402; 20_memory.md R67): by its accesses, which exec_performs
lists in order. -/

namespace Sys2Proof.Machine

/-! ## What an answer to a list of accesses says of the list -/

/-- An access in the middle of an instruction leaves the platform, and so what it serves, as it was. -/
theorem serves_after_access {s u : State} {v : Byte} {x : Access} (hbus : SameBus (s.afterAccess v x) u) (y : Access) :
    u.serves y = s.serves y := by
  have hplatform : u.platform = s.platform := hbus.platform.trans (s.afterAccess_platform v x)
  cases y <;> simp only [State.serves, State.canAccess, State.kindAt, State.canUsePort, hplatform]

theorem Performs.completes {r : Result} {s : State} {acc : List Access} (h : Performs r s acc)
    (hserved : ∀ x ∈ acc, s.serves x = true) : ∃ t, r = .next t := by
  induction h with
  | done => exact ⟨_, rfl⟩
  | access v _ hbus _ ih =>
    exact ih fun x hx => (serves_after_access hbus x).trans (hserved x (List.mem_cons_of_mem _ hx))
  | stop rest hunserved => exact absurd (hserved _ List.mem_cons_self) (Bool.eq_false_iff.1 hunserved)

/-- The answer is the fault at the first access that is not served, in a memory that differs at most where an earlier
access wrote. -/
theorem Performs.faults {r : Result} {s : State} {earlier later : List Access} {x : Access}
    (h : Performs r s (earlier ++ x :: later)) (hserved : ∀ y ∈ earlier, s.serves y = true)
    (hunserved : s.serves x = false) :
    ∃ m, r = .fault (.platformFault x m) ∧ ∀ a, Access.memWrite a ∉ earlier → Memory.read m a = s.peek a := by
  induction earlier generalizing s with
  | nil =>
    cases h with
    | access _ hx => exact absurd hx (Bool.eq_false_iff.1 hunserved)
    | stop => exact ⟨s.mem, rfl, fun _ _ => rfl⟩
  | cons y earlier ih =>
    cases h with
    | stop _ hy => exact absurd (hserved y List.mem_cons_self) (Bool.eq_false_iff.1 hy)
    | @access _ _ u _ _ v _ hbus hrest =>
      obtain ⟨m, hfault, hkept⟩ := ih hrest
        (fun z hz => (serves_after_access hbus z).trans (hserved z (List.mem_cons_of_mem _ hz)))
        ((serves_after_access hbus x).trans hunserved)
      refine ⟨m, hfault, fun a ha => ?_⟩
      simp only [List.mem_cons, not_or] at ha
      obtain ⟨hy, hearlier⟩ := ha
      rw [hkept a hearlier, State.peek, hbus.mem]
      exact State.peek_afterAccess _ v (Ne.symm hy)

/-- Settles O22: every instruction performs its data accesses. -/
theorem accessesDecideOutcome : Obligations.AccessesDecideOutcome := by
  intro i s
  refine ⟨(exec_performs i s).completes, fun earlier later x hacc => ?_⟩
  have hperforms := exec_performs i s
  rw [hacc] at hperforms
  exact hperforms.faults

/-- Where no region is listed every address is RAM, and where no port is dead every port is answered. -/
theorem serves_of_default {s : State} (hregions : s.platform.regions = []) (hports : s.platform.deadPorts = [])
    (x : Access) : s.serves x = true := by
  have hmem (a : Word) : s.canAccess a = true := by
    simp [State.canAccess, State.kindAt, hregions, kindIn]
  have hport (port : Byte) : s.canUsePort port = true := by simp [State.canUsePort, hports]
  cases x with
  | fetch a | memRead a | memWrite a => exact hmem a
  | ioRead port | ioWrite port => exact hport port

/-- Settles O23: the default platform serves every access. -/
theorem everyInstrCompletesOnDefaultPlatform : Obligations.EveryInstrCompletesOnDefaultPlatform :=
  fun i s hregions hports => (exec_performs i s).completes fun x _ => serves_of_default hregions hports x

/-! ## Two bytes of which the second is not stored -/

theorem faultsAfterStoring_poke {s : State} {a : Word} {v : Byte} {x : Access} {r : Result}
    (h : r = .fault (.platformFault x (s.poke a v).mem)) : s.FaultsAfterStoring [(a, v)] x r :=
  ⟨_, h, fun y => s.peek_poke a y v⟩

/-- A push that stops at its second byte; undetermined bits drawn before it (PUSH AF, log 6) make no difference. -/
theorem push_faultsAfterStoring {s : State} (h1 : s.canAccess (s.sp - 1) = true) (h2 : s.canAccess (s.sp - 2) = false)
    (draws : Nat) (w : Word) (k : State → Result) :
    s.FaultsAfterStoring [(s.sp - 1, highByte w)] (.memWrite (s.sp - 2))
      (({ s with draws := draws } : State).push w k) :=
  faultsAfterStoring_poke (s := { s with draws := draws }) (State.push_fault_second h1 h2)

/-- EX (SP),HL faults at one of its two reads or completes: it writes where it has read. -/
theorem exec_exSPHL_fault {s : State} {x : Access} {m : Memory} (h : exec .exSPHL s = .fault (.platformFault x m)) :
    (x = .memRead s.sp ∨ x = .memRead (s.sp + 1)) ∧ m = s.mem := by
  cases h1 : s.canAccess s.sp with
  | false =>
    simp only [exec, execExSPHL, State.load16, State.load_of_no_access h1] at h
    cases h
    exact ⟨.inl rfl, rfl⟩
  | true =>
    cases h2 : s.canAccess (s.sp + 1) with
    | false =>
      simp only [exec, execExSPHL, State.load16, State.load_of_access h1, State.load_of_no_access h2] at h
      cases h
      exact ⟨.inr rfl, rfl⟩
    | true =>
      rw [exec_exSPHL_of_access h1 h2] at h
      cases h

/-- Settles O28: each store row is a storeReg16 and each stack row a push, which stop with their first byte stored. -/
theorem twoByteStoreKeepsFirstByte : Obligations.TwoByteStoreKeepsFirstByte := by
  refine ⟨fun s nn dd h1 h2 e he => ?_, fun s nn cc h1 h2 e he htaken => ?_, fun s x m => exec_exSPHL_fault⟩
  · obtain ⟨len, hexec⟩ : ∃ len, exec e.1 s = storeReg16 nn e.2 len s := by
      simp only [List.mem_cons, List.not_mem_nil, or_false] at he
      rcases he with rfl | rfl | rfl | rfl <;> exact ⟨_, rfl⟩
    rw [hexec]
    exact faultsAfterStoring_poke (State.store16_fault_second h1 h2)
  · obtain ⟨draws, w, k, hexec, hhigh⟩ : ∃ draws w k,
        exec e.1 s = ({ s with draws := draws } : State).push w k ∧ highByte w = e.2.2 := by
      simp only [List.mem_cons, List.not_mem_nil, or_false] at he
      rcases he with rfl | rfl | rfl | rfl | rfl | rfl | rfl | rfl | rfl
      iterate 4 exact ⟨_, _, _, exec_pushPair s _, highByte_word ..⟩
      iterate 3 exact ⟨s.draws, _, _, rfl, rfl⟩
      · exact ⟨s.draws, _, _, exec_callCond_taken htaken nn, rfl⟩
      · exact ⟨s.draws, _, _, rfl, rfl⟩
    rw [hexec, ← hhigh]
    exact push_faultsAfterStoring h1 h2 draws w k

end Sys2Proof.Machine
end

section
/-! PROOF. The decoder's verdict on a list of bytes (30_encoding.md R80, R91, R96): once it is an instruction or a
refusal it stands whatever bytes follow, and no more than three bytes leave it open. -/

namespace Sys2Proof

open Machine

/-! ## A verdict stands -/

theorem decode_append_of_ok {bytes rest : List Byte} {i : Instr} (h : decode bytes = .ok (i, rest))
    (more : List Byte) : decode (bytes ++ more) = .ok (i, rest ++ more) := by
  obtain ⟨hwf, hbytes⟩ := encodeAfterDecode bytes rest i h
  rw [← hbytes, List.append_assoc]
  exact decodeAfterEncode i (rest ++ more) hwf

theorem decode_index_append_of_undefined {first : Byte} (hfirst : first ∈ ([0xDD, 0xFD] : List Byte))
    {rest : List Byte} (h : decode (first :: rest) = .error .undefinedOpcode) (more : List Byte) :
    decode (first :: (rest ++ more)) = .error .undefinedOpcode := by
  obtain ⟨-, -, -, hindexed, hindexedCB⟩ := undefinedEncodingsRefused
  obtain ⟨x, rfl⟩ := Index.eq_selector hfirst
  cases rest with
  | nil => rw [decode_selector] at h; cases h
  | cons op rest =>
    by_cases hop : op = 0xCB
    · subst hop
      match rest with
      | [] | [_] => rw [decode_selector] at h; cases h
      | d :: op :: rest => exact (hindexedCB _ d op _ hfirst).2 ((hindexedCB _ d op _ hfirst).1 h)
    · exact (hindexed _ op _ hfirst hop).2 ((hindexed _ op _ hfirst hop).1 h)

/-- Which bytes match no row is read off their beginning (30_encoding.md R96). -/
theorem decode_append_of_undefined {bytes : List Byte} (h : decode bytes = .error .undefinedOpcode)
    (more : List Byte) : decode (bytes ++ more) = .error .undefinedOpcode := by
  obtain ⟨hmain, hCB, hED, -, -⟩ := undefinedEncodingsRefused
  match bytes with
  | [] => cases h
  | first :: rest =>
    by_cases hindex : first ∈ ([0xDD, 0xFD] : List Byte)
    · exact decode_index_append_of_undefined hindex h more
    by_cases hCBfirst : first = 0xCB
    · subst hCBfirst
      cases rest with
      | nil => cases h
      | cons op rest => exact (hCB op _).2 ((hCB op _).1 h)
    by_cases hEDfirst : first = 0xED
    · subst hEDfirst
      cases rest with
      | nil => cases h
      | cons op rest => exact (hED op _).2 ((hED op _).1 h)
    have hfirst : first ∉ ([0xCB, 0xDD, 0xED, 0xFD] : List Byte) := by
      simp only [List.mem_cons, List.not_mem_nil, or_false, not_or] at hindex ⊢
      exact ⟨hCBfirst, hindex.1, hEDfirst, hindex.2⟩
    exact (hmain first _ hfirst).2 ((hmain first _ hfirst).1 h)

/-- Where decoding asks for more bytes, it asked for more at every byte before. -/
theorem decode_incomplete_of_append {bytes more : List Byte} (h : decode (bytes ++ more) = .error .incomplete) :
    decode bytes = .error .incomplete := by
  cases hbytes : decode bytes with
  | ok read => rw [decode_append_of_ok hbytes] at h; cases h
  | error refusal =>
    cases refusal with
    | incomplete => rfl
    | undefinedOpcode => rw [decode_append_of_undefined hbytes] at h; cases h

/-- Of the bytes of one instruction, decoding needs the last. -/
theorem decode_dropLast_of_ok {bytes : List Byte} {i : Instr} (h : decode bytes = .ok (i, [])) :
    decode bytes.dropLast = .error .incomplete := by
  have hne : bytes ≠ [] := fun hnil => by rw [hnil] at h; cases h
  have hbytes := List.dropLast_concat_getLast hne
  cases hread : decode bytes.dropLast with
  | ok read =>
    obtain ⟨j, rest⟩ := read
    have happend := decode_append_of_ok hread [bytes.getLast hne]
    rw [hbytes, h] at happend
    simp at happend
  | error refusal =>
    cases refusal with
    | incomplete => rfl
    | undefinedOpcode =>
      have happend := decode_append_of_undefined hread [bytes.getLast hne]
      rw [hbytes, h] at happend
      cases happend

/-! ## Four bytes are enough (30_encoding.md R80) -/

section formats

variable (rest : List Byte)

@[simp] theorem noOperand_not_incomplete (i : Instr) : noOperand i rest ≠ .error .incomplete := nofun

@[simp] theorem noOperand?_not_incomplete (row : Option Instr) : noOperand? row rest ≠ .error .incomplete := by
  cases row <;> exact nofun

@[simp] theorem oneByte_not_incomplete (f : Byte → Instr) (n : Byte) :
    oneByte f (n :: rest) ≠ .error .incomplete := nofun

@[simp] theorem twoBytes_not_incomplete (f : Byte → Byte → Instr) (d n : Byte) :
    twoBytes f (d :: n :: rest) ≠ .error .incomplete := nofun

@[simp] theorem immediateWord_not_incomplete (f : Word → Instr) (lo hi : Byte) :
    immediateWord f (lo :: hi :: rest) ≠ .error .incomplete := nofun

theorem decodeCB_not_incomplete (op : Byte) : decodeCB op rest ≠ .error .incomplete := by
  unfold decodeCB
  split <;> dsimp only <;> split <;> simp

theorem decodeED_not_incomplete (op lo hi : Byte) : decodeED op (lo :: hi :: rest) ≠ .error .incomplete := by
  obtain ⟨x, y, z, rfl⟩ := exists_opByte op
  rw [decodeED, groupX_opByte, groupY_opByte, groupZ_opByte]
  cases x using code2_cases with
  | c0 | c2 | c3 => simp
  | c1 =>
    cases z using code3_cases with
    | c0 | c1 => cases y using Reg8.operand_cases <;> simp
    | c2 | c3 | c4 | c5 | c6 | c7 => simp [ite_eq_iff]

theorem decodeIndexed_not_incomplete (x : Index) (op b c : Byte) :
    decodeIndexed x op (b :: c :: rest) ≠ .error .incomplete := by
  obtain ⟨q, y, z, rfl⟩ := exists_opByte op
  rw [decodeIndexed, groupX_opByte, groupY_opByte, groupZ_opByte]
  cases q using code2_cases with
  | c0 => cases z using code3_cases <;> simp [ite_eq_iff]
  | c1 => cases y using Reg8.operand_cases <;> cases z using Reg8.operand_cases <;> simp
  | c2 | c3 => simp [ite_eq_iff]

theorem decodeIndexedCB_not_incomplete (x : Index) (d op : Byte) :
    decodeIndexedCB x d op rest ≠ .error .incomplete := by
  unfold decodeIndexedCB
  dsimp only
  split
  · split <;> simp
  · simp

theorem decodeAfterIndex_not_incomplete (x : Index) (b c d : Byte) :
    decodeAfterIndex x (b :: c :: d :: rest) ≠ .error .incomplete := by
  by_cases hb : b = 0xCB
  · subst hb
    exact decodeIndexedCB_not_incomplete rest x c d
  · rw [decodeAfterIndex_of_ne_CB x _ hb]
    exact decodeIndexed_not_incomplete rest x b c d

theorem decodeQuarter0_not_incomplete (op b c : Byte) :
    decodeQuarter0 op (b :: c :: rest) ≠ .error .incomplete := by
  obtain ⟨x, y, z, rfl⟩ := exists_opByte op
  rw [decodeQuarter0, groupY_opByte, groupZ_opByte]
  cases z using code3_cases with
  | c0 | c1 | c3 | c7 => simp [ite_eq_iff]
  | c2 => cases y using code3_cases <;> simp
  | c4 | c5 | c6 => cases y using Reg8.operand_cases <;> simp

theorem decodeQuarter1_not_incomplete (op : Byte) : decodeQuarter1 op rest ≠ .error .incomplete := by
  unfold decodeQuarter1
  split <;> simp

theorem decodeQuarter2_not_incomplete (op : Byte) : decodeQuarter2 op rest ≠ .error .incomplete := by
  unfold decodeQuarter2
  split <;> simp

theorem decodeStackRow_not_incomplete (op : Byte) : decodeStackRow op rest ≠ .error .incomplete := by
  unfold decodeStackRow
  split <;> simp

theorem decodeMiscRow_not_incomplete (op b c : Byte) : decodeMiscRow op (b :: c :: rest) ≠ .error .incomplete := by
  unfold decodeMiscRow
  split
  case h_2 => exact decodeCB_not_incomplete (c :: rest) b
  all_goals simp

theorem decodePushRow_not_incomplete (op b c d : Byte) :
    decodePushRow op (b :: c :: d :: rest) ≠ .error .incomplete := by
  unfold decodePushRow
  split
  · exact nofun
  · exact decodeAfterIndex_not_incomplete rest .ix b c d
  · exact decodeED_not_incomplete rest b c d
  · exact decodeAfterIndex_not_incomplete rest .iy b c d
  · exact nofun

theorem decodeQuarter3_not_incomplete (op b c d : Byte) :
    decodeQuarter3 op (b :: c :: d :: rest) ≠ .error .incomplete := by
  unfold decodeQuarter3
  split
  case h_2 => exact decodeStackRow_not_incomplete _ op
  case h_4 => exact decodeMiscRow_not_incomplete _ op b c
  case h_6 => exact decodePushRow_not_incomplete rest op b c d
  all_goals simp

theorem decode_four_not_incomplete (op b c d : Byte) :
    decode (op :: b :: c :: d :: rest) ≠ .error .incomplete := by
  rw [decode]
  split
  · exact decodeQuarter0_not_incomplete _ op b c
  · exact decodeQuarter1_not_incomplete _ op
  · exact decodeQuarter2_not_incomplete _ op
  · exact decodeQuarter3_not_incomplete rest op b c d

end formats

theorem length_lt_of_incomplete {bytes : List Byte} (h : decode bytes = .error .incomplete) :
    bytes.length < maxLength := by
  match bytes with
  | [] | [_] | [_, _] | [_, _, _] => simp [maxLength]
  | op :: b :: c :: d :: rest => exact absurd h (decode_four_not_incomplete rest op b c d)

end Sys2Proof
end

section
/-! PROOF. The step that executes an instruction (60_exceptions.md R401, R402, R420; 20_memory.md R68): the fetch reads
the bytes that memory holds at pc as long as the decoder asks for more. -/

namespace Sys2Proof.Machine

/-! ## The fetch -/

theorem State.fetchFrom_of_ok {s : State} {bytes rest : List Byte} {i : Instr} (h : decode bytes = .ok (i, rest))
    (fuel : Nat) : s.fetchFrom bytes fuel = .ok i := by
  unfold State.fetchFrom
  rw [h]

theorem State.fetchFrom_of_undefined {s : State} {bytes : List Byte} (h : decode bytes = .error .undefinedOpcode)
    (fuel : Nat) : s.fetchFrom bytes fuel = .error (.undefinedOpcode s.pc bytes) := by
  unfold State.fetchFrom
  rw [h]

/-- While decoding asks for more, the next byte is fetched if it can be read. -/
theorem State.fetchFrom_of_incomplete {s : State} {bytes : List Byte} (h : decode bytes = .error .incomplete)
    (fuel : Nat) :
    s.fetchFrom bytes (fuel + 1) =
      if s.canAccess (s.pc + BitVec.ofNat 16 bytes.length) then
        s.fetchFrom (bytes ++ [s.peek (s.pc + BitVec.ofNat 16 bytes.length)]) fuel
      else .error (.platformFault (.fetch (s.pc + BitVec.ofNat 16 bytes.length)) s.mem) := by
  rw [State.fetchFrom, h]

theorem State.holds_cons {s : State} {a : Word} {v : Byte} {bytes : List Byte} :
    s.holds a (v :: bytes) = true ↔ s.canAccess a = true ∧ s.peek a = v ∧ s.holds (a + 1) bytes = true := by
  simp [State.holds, and_assoc]

/-- Bytes that memory holds after those already fetched are fetched one by one, if decoding asks for the last of
them. -/
theorem State.fetchFrom_of_holds {s : State} (more : List Byte) : ∀ (seen : List Byte) (fuel : Nat),
    s.holds (s.pc + BitVec.ofNat 16 seen.length) more = true →
    decode (seen ++ more.dropLast) = .error .incomplete →
    s.fetchFrom seen (fuel + more.length) = s.fetchFrom (seen ++ more) fuel := by
  induction more with
  | nil => intro seen fuel _ _; rw [List.append_nil]; rfl
  | cons v more ih =>
    intro seen fuel hholds hopen
    obtain ⟨haccess, hbyte, hrest⟩ := State.holds_cons.1 hholds
    have hnext : s.pc + BitVec.ofNat 16 (seen ++ [v]).length = s.pc + BitVec.ofNat 16 seen.length + 1 := by
      rw [List.length_append, List.length_singleton, BitVec.ofNat_add, ← BitVec.add_assoc]
      rfl
    rw [List.length_cons, ← Nat.add_assoc, State.fetchFrom_of_incomplete (decode_incomplete_of_append hopen),
      if_pos haccess, hbyte, List.append_cons seen v more]
    cases more with
    | nil => rw [List.append_nil]; rfl
    | cons v' more =>
      refine ih (seen ++ [v]) fuel (hnext ▸ hrest) ?_
      rw [List.append_assoc]
      exact hopen

/-- The fetch gets as far as the bytes that memory holds at pc, if decoding asks for the last of them. -/
theorem State.fetchInstr_of_holds {s : State} {bytes : List Byte} (hholds : s.holds s.pc bytes = true)
    (hopen : decode bytes.dropLast = .error .incomplete) :
    s.fetchInstr = s.fetchFrom bytes (maxLength - bytes.length) := by
  have hlength : bytes.length ≤ maxLength := by
    have := length_lt_of_incomplete hopen
    rw [List.length_dropLast] at this
    omega
  have hfetch := State.fetchFrom_of_holds (s := s) bytes [] (maxLength - bytes.length)
    (by simpa using hholds) hopen
  rwa [Nat.sub_add_cancel hlength] at hfetch

/-! ## The branches of a step -/

theorem State.executes_iff {s : State} :
    s.executes = true ↔ s.resetRequested = false ∧ s.interruptAccepted = false ∧ s.halted = false := by
  simp [State.executes, and_assoc]

theorem State.interruptAccepted_iff {s : State} :
    s.interruptAccepted = true ↔ s.iff = true ∧ s.inhibit = false ∧ s.interruptRequested = true := by
  simp [State.interruptAccepted, and_assoc]

theorem interruptAccepted_of_inhibit {s : State} (h : s.inhibit = true) : s.interruptAccepted = false := by
  simp [State.interruptAccepted, h]

theorem step_of_reset {s : State} (h : s.resetRequested = true) : step s = .next s.tick.applyReset := by
  rw [step, if_pos h]

theorem step_of_accepted {s : State} (hreset : s.resetRequested = false) (haccepted : s.interruptAccepted = true) :
    step s = s.tick.interruptEntry := by
  rw [step, if_neg (Bool.eq_false_iff.1 hreset), if_pos haccepted]

theorem step_of_fetched {s : State} {i : Instr} (h : s.executes = true) (hfetch : s.tick.fetchInstr = .ok i) :
    step s = exec i s.tick := by
  obtain ⟨hreset, haccepted, hrunning⟩ := State.executes_iff.1 h
  simp [step, hreset, haccepted, hrunning, hfetch]

theorem step_of_fetch_fault {s : State} {fault : Fault} (h : s.executes = true)
    (hfetch : s.tick.fetchInstr = .error fault) : step s = .fault fault := by
  obtain ⟨hreset, haccepted, hrunning⟩ := State.executes_iff.1 h
  simp [step, hreset, haccepted, hrunning, hfetch]

/-- Settles O8: reset comes first, and State.applyReset names what it writes. -/
theorem resetStep : Obligations.ResetStep := fun _ hreset =>
  ⟨_, step_of_reset hreset, rfl, rfl, rfl, rfl, rfl, rfl, rfl, rfl, rfl⟩

/-! ## What a fetch delivers to the step -/

theorem SameBus.holds {s t : State} (h : SameBus s t) (bytes : List Byte) :
    ∀ a, t.holds a bytes = s.holds a bytes := by
  induction bytes with
  | nil => exact fun _ => rfl
  | cons v bytes ih =>
    intro a
    rw [State.holds, State.holds, ih]
    simp only [State.canAccess, State.kindAt, State.peek, h.mem, h.platform]

theorem State.tick_sameBus (s : State) : SameBus s s.tick := ⟨rfl, rfl, rfl, rfl⟩

/-- State.fetchInstr_of_holds at the boundary where a step fetches. -/
theorem State.tick_fetchInstr_of_holds {s : State} {bytes : List Byte} (hholds : s.holds s.pc bytes = true)
    (hopen : decode bytes.dropLast = .error .incomplete) :
    s.tick.fetchInstr = s.tick.fetchFrom bytes (maxLength - bytes.length) :=
  State.fetchInstr_of_holds ((s.tick_sameBus.holds bytes s.pc).trans hholds) hopen

/-- Settles O5: decoding asks for the last byte of the instruction and no further. -/
theorem stepRunsDecodedInstr : Obligations.StepRunsDecodedInstr := by
  intro s bytes i hexecutes hdecode hholds
  have hfetch := State.tick_fetchInstr_of_holds hholds (decode_dropLast_of_ok hdecode)
  exact step_of_fetched hexecutes (hfetch.trans (State.fetchFrom_of_ok hdecode _))

/-- Settles O6: the bytes fetched are those up to the refusal. -/
theorem stepStopsAtUndefinedOpcode : Obligations.StepStopsAtUndefinedOpcode := by
  intro s bytes hexecutes hholds hdecode hopen
  have hfetch := State.tick_fetchInstr_of_holds hholds hopen
  exact step_of_fetch_fault hexecutes (hfetch.trans (State.fetchFrom_of_undefined hdecode _))

/-- Settles O7: after the bytes that memory holds one more is asked for, which cannot be read. -/
theorem stepStopsAtUnreadableFetch : Obligations.StepStopsAtUnreadableFetch := by
  intro s bytes hexecutes hholds hdecode hunreadable
  have hopen : decode bytes.dropLast = .error .incomplete :=
    decode_incomplete_of_append (more := bytes.drop (bytes.length - 1)) (by
      rw [List.dropLast_eq_take, List.take_append_drop]; exact hdecode)
  obtain ⟨fuel, hfuel⟩ : ∃ fuel, maxLength - bytes.length = fuel + 1 :=
    Nat.exists_eq_add_one.2 (Nat.sub_pos_of_lt (length_lt_of_incomplete hdecode))
  have hfetch := State.tick_fetchInstr_of_holds hholds hopen
  rw [hfuel, State.fetchFrom_of_incomplete hdecode] at hfetch
  exact step_of_fetch_fault hexecutes (hfetch.trans (if_neg (Bool.eq_false_iff.1 hunreadable)))

end Sys2Proof.Machine
end

section
/-! PROOF. Interrupts (60_exceptions.md R403 to R410; 70_reset_and_hazards.md R453): what the entry of an accepted one
leaves, and when the next instructions run before it. -/

namespace Sys2Proof.Machine

/-! ## The entry -/

/-- The state after the step that takes an interrupt: pc pushed, control at `INT_VECTOR`, IFF, inhibit and halted
cleared, one boundary passed (60_exceptions.md R406). -/
def State.interrupted (s : State) : State :=
  { s with
    mem := (s.pushed s.pc).mem, sp := s.sp - 2, pc := s.platform.intVector
    iff := false, inhibit := false, halted := false, boundary := s.boundary + 1 }

/-- What a push leaves in memory depends on SP, memory and the platform alone. -/
theorem SameBus.pushed_mem {s t : State} (h : SameBus s t) (hsp : t.sp = s.sp) (w : Word) :
    (t.pushed w).mem = (s.pushed w).mem := by
  rw [State.pushed_eq, State.pushed_eq, hsp]
  exact ((h.poke _ _).poke _ _).mem

/-- The state from which the entry pushes pc (60_exceptions.md R406): halted, IFF and inhibit are cleared first. -/
def State.entryStart (s : State) : State := { s with halted := false, iff := false, inhibit := false }

theorem State.entryStart_sameBus (s : State) : SameBus s s.entryStart := ⟨rfl, rfl, rfl, rfl⟩

theorem step_eq_entry_push {s : State} (hreset : s.resetRequested = false) (haccepted : s.interruptAccepted = true) :
    step s = s.tick.entryStart.push s.pc fun t => .next { t with pc := t.platform.intVector } :=
  step_of_accepted hreset haccepted

theorem step_eq_interrupted {s : State} (hreset : s.resetRequested = false) (haccepted : s.interruptAccepted = true)
    (h1 : s.canAccess (s.sp - 1) = true) (h2 : s.canAccess (s.sp - 2) = true) : step s = .next s.interrupted := by
  have hmem : (s.tick.entryStart.pushed s.pc).mem = (s.pushed s.pc).mem :=
    (s.tick_sameBus.trans s.tick.entryStart_sameBus).pushed_mem rfl s.pc
  refine (step_eq_entry_push hreset haccepted).trans (State.push_next.2 ⟨h1, h2, ?_⟩)
  rw [State.interrupted, ← hmem, State.pushed_eq]
  rfl

/-- Settles O11: the step is the entry, whose push is served or stops at its first or its second byte. -/
theorem stepTakesAcceptedInterrupt : Obligations.StepTakesAcceptedInterrupt := by
  intro s hreset hrequested hiff hinhibit
  have haccepted := State.interruptAccepted_iff.2 ⟨hiff, hinhibit, hrequested⟩
  refine ⟨fun h1 h2 => ?_, fun h1 => ?_, fun h1 h2 => ?_⟩
  · refine answersStoring_poke_poke ?_
    rw [step_eq_interrupted hreset haccepted h1 h2, State.interrupted, State.pushed_eq]
  · rw [step_eq_entry_push hreset haccepted]
    exact State.push_fault_first (s := s.tick.entryStart) h1
  · have hmem : (s.tick.entryStart.poke (s.sp - 1) (highByte s.pc)).mem = (s.poke (s.sp - 1) (highByte s.pc)).mem :=
      ((s.tick_sameBus.trans s.tick.entryStart_sameBus).poke _ _).mem
    refine faultsAfterStoring_poke ?_
    rw [step_eq_entry_push hreset haccepted, ← hmem]
    exact State.push_fault_second (s := s.tick.entryStart) h1 h2

/-- Settles O17: EI leaves inhibit set, and an instruction other than DI and EI clears it and keeps IFF. -/
theorem eiShadowCoversOneInstr : Obligations.EiShadowCoversOneInstr := by
  intro s t hei
  rw [next_eq_next.1 ((exec_ei s).symm.trans hei)]
  refine ⟨interruptAccepted_of_inhibit rfl, fun j u h hdi hnotei hrequested => ?_⟩
  obtain ⟨hiff, -⟩ := onlyDiEiHaltWriteControlBits j _ u h
  have hshadow := (inhibitFollowsDiEi.1 j _ u h).not.2 (not_or.2 ⟨hdi, hnotei⟩)
  rw [if_neg hdi, if_neg hnotei] at hiff
  exact State.interruptAccepted_iff.2 ⟨hiff, Bool.not_eq_true _ ▸ hshadow, hrequested⟩

/-! ## Two steps at the end and at the beginning of a handler -/

theorem run_two_of_next {s t : State} (h : step s = .next t) : Sys2Proof.core.run 2 s = Sys2Proof.core.run 1 t :=
  run_succ_of_next Sys2Proof.core h 1

theorem run_one_of_next {s t : State} (h : step s = .next t) : Sys2Proof.core.run 1 s = .next t :=
  run_succ_of_next Sys2Proof.core h 0

theorem step_ei {s : State} (hexecutes : s.executes = true) (hbyte : s.holds s.pc [0xFB] = true) :
    step s = .next { s.tick.retireInhibited 1 with iff := true } :=
  (stepRunsDecodedInstr s _ .ei hexecutes (decodeAfterEncode .ei [] rfl) hbyte).trans (exec_ei s.tick)

theorem step_ret {s : State} (hexecutes : s.executes = true) (hbyte : s.holds s.pc [0xC9] = true) :
    step s = s.tick.returnFromCall :=
  (stepRunsDecodedInstr s _ .ret hexecutes (decodeAfterEncode .ret [] rfl) hbyte).trans (exec_ret s.tick)

/-- Settles O13: the shadow of EI masks every request at the boundary before RET. -/
theorem handlerReturnsThroughEiRet : Obligations.HandlerReturnsThroughEiRet := by
  intro s hexecutes hreset hholds h1 h2
  obtain ⟨hei, hbyte, hret⟩ := State.holds_cons.1 hholds
  obtain ⟨-, -, hrunning⟩ := State.executes_iff.1 hexecutes
  have hfirst := step_ei hexecutes (State.holds_cons.2 ⟨hei, hbyte, rfl⟩)
  have hshadow : State.executes { s.tick.retireInhibited 1 with iff := true } = true :=
    State.executes_iff.2 ⟨hreset, interruptAccepted_of_inhibit rfl, hrunning⟩
  have hsecond := (step_ret hshadow hret).trans (returnFromCall_of_access h1 h2)
  rw [run_two_of_next hfirst, run_one_of_next hsecond]
  rfl

/-- The return takes up the word that the entry pushed on RAM. -/
theorem returnFromCall_of_interrupted {s : State} (h1 : s.kindAt (s.sp - 1) = .ram) (h2 : s.kindAt (s.sp - 2) = .ram) :
    s.interrupted.tick.returnFromCall = .next { s with
      mem := (s.pushed s.pc).mem, iff := false, inhibit := false, halted := false, boundary := s.boundary + 2 } := by
  have hsp : s.interrupted.tick.sp = s.sp - 2 := rfl
  have hup : s.interrupted.tick.sp + 1 = s.sp - 1 := by rw [hsp]; bv_omega
  have hback : s.interrupted.tick.sp + 2 = s.sp := by rw [hsp]; bv_omega
  have hpeek (a : Word) : s.interrupted.tick.peek a = (s.pushed s.pc).peek a := rfl
  have haccess1 : s.interrupted.tick.canAccess (s.interrupted.tick.sp + 1) = true :=
    hup ▸ State.canAccess_of_ram h1
  have haccess2 : s.interrupted.tick.canAccess s.interrupted.tick.sp = true := State.canAccess_of_ram h2
  rw [returnFromCall_of_access haccess2 haccess1, hup, hback, hpeek, hpeek, hsp,
    State.word_at_top_of_pushed h1 h2]
  rfl

/-- Settles O14: the RET stands where the entry went, and pops the word the entry pushed. -/
theorem interruptThenRetResumes : Obligations.InterruptThenRetResumes := by
  intro s hreset hreset' haccepted h1 h2 hholds hne1 hne2
  obtain ⟨haccess, hbyte, -⟩ := State.holds_cons.1 hholds
  have hentry := step_eq_interrupted hreset haccepted (State.canAccess_of_ram h1) (State.canAccess_of_ram h2)
  have hexecutes : s.interrupted.executes = true :=
    State.executes_iff.2 ⟨hreset', interruptAccepted_of_iff_off rfl, rfl⟩
  have hkept : s.interrupted.peek s.platform.intVector = 0xC9 := by
    have hpushed := s.peek_pushed s.pc s.platform.intVector
    rw [if_neg fun h => hne2 h.1, if_neg fun h => hne1 h.1, hbyte] at hpushed
    exact hpushed
  have hreturn := (step_ret hexecutes (State.holds_cons.2 ⟨haccess, hkept, rfl⟩)).trans
    (returnFromCall_of_interrupted h1 h2)
  refine answersStoring_poke_poke ?_
  rw [run_two_of_next hentry, run_one_of_next hreturn, State.pushed_eq]
  rfl

end Sys2Proof.Machine
end

section
/-! PROOF. The list of interrupt requests is read at the boundary alone (60_exceptions.md R403 to R405): one rule per
shared operation, one lemma per shape of instruction, then exec, the fetch and the step. -/

namespace Sys2Proof.Machine

section requests

variable {s : State} {requests : List Bool}

/-! ## Updates -/

theorem State.setReg8_withRequests (r : Reg8) (v : Byte) :
    (s.withRequests requests).setReg8 r v = (s.setReg8 r v).withRequests requests := by cases r <;> rfl

theorem State.setReg16_withRequests (r : Reg16) (w : Word) :
    (s.withRequests requests).setReg16 r w = (s.setReg16 r w).withRequests requests := by cases r <;> rfl

theorem State.writeQQ_withRequests (qq : RegQQ) (w : Word) :
    (s.withRequests requests).writeQQ qq w = (s.writeQQ qq w).withRequests requests := by cases qq <;> rfl

theorem State.poke_withRequests (a : Word) (v : Byte) :
    (s.withRequests requests).poke a v = (s.poke a v).withRequests requests := by
  have hkind : (s.withRequests requests).kindAt a = s.kindAt a := rfl
  unfold State.poke
  rw [hkind]
  split <;> rfl

theorem State.address_withRequests (m : MemOperand) : (s.withRequests requests).address m = s.address m := by
  cases m <;> rfl

/-! ## The rules of the shared operations: what follows the operation ignores the requests, so the whole does -/

theorem load_withRequests {a : Word} {k k' : Byte → Result}
    (hk : ∀ v, k' v = mapNext (·.withRequests requests) (k v)) :
    (s.withRequests requests).load a k' = mapNext (·.withRequests requests) (s.load a k) := by
  cases h : s.canAccess a with
  | true => rw [State.load_of_access h, State.load_of_access (s := s.withRequests requests) h]; exact hk _
  | false => rw [State.load_of_no_access h, State.load_of_no_access (s := s.withRequests requests) h]; rfl

theorem store_withRequests {a : Word} {v : Byte} {k k' : State → Result}
    (hk : ∀ t : State, k' (t.withRequests requests) = mapNext (·.withRequests requests) (k t)) :
    (s.withRequests requests).store a v k' = mapNext (·.withRequests requests) (s.store a v k) := by
  cases h : s.canAccess a with
  | true =>
    rw [State.store_of_access h, State.store_of_access (s := s.withRequests requests) h, State.poke_withRequests]
    exact hk _
  | false => rw [State.store_of_no_access h, State.store_of_no_access (s := s.withRequests requests) h]; rfl

theorem load16_withRequests {a : Word} {k k' : Word → Result}
    (hk : ∀ w, k' w = mapNext (·.withRequests requests) (k w)) :
    (s.withRequests requests).load16 a k' = mapNext (·.withRequests requests) (s.load16 a k) :=
  load_withRequests fun _ => load_withRequests fun _ => hk _

theorem store16_withRequests {a w : Word} {k k' : State → Result}
    (hk : ∀ t : State, k' (t.withRequests requests) = mapNext (·.withRequests requests) (k t)) :
    (s.withRequests requests).store16 a w k' = mapNext (·.withRequests requests) (s.store16 a w k) :=
  store_withRequests fun _ => store_withRequests hk

theorem push_withRequests {w : Word} {k k' : State → Result}
    (hk : ∀ t : State, k' (t.withRequests requests) = mapNext (·.withRequests requests) (k t)) :
    (s.withRequests requests).push w k' = mapNext (·.withRequests requests) (s.push w k) := by
  simp only [State.push]
  exact store_withRequests (s := { s with sp := s.sp - 1 }) (requests := requests) fun t =>
    store_withRequests (s := { t with sp := t.sp - 1 }) hk

theorem pop_withRequests {k k' : Word → State → Result}
    (hk : ∀ w (t : State), k' w (t.withRequests requests) = mapNext (·.withRequests requests) (k w t)) :
    (s.withRequests requests).pop k' = mapNext (·.withRequests requests) (s.pop k) :=
  load_withRequests fun _ =>
    load_withRequests (s := { s with sp := s.sp + 1 }) fun _ => hk _ { s with sp := s.sp + 1 + 1 }

theorem input_withRequests {port : Byte} {k k' : Byte → State → Result}
    (hk : ∀ v (t : State), k' v (t.withRequests requests) = mapNext (·.withRequests requests) (k v t)) :
    (s.withRequests requests).input port k' = mapNext (·.withRequests requests) (s.input port k) := by
  have hport : (s.withRequests requests).canUsePort port = s.canUsePort port := rfl
  unfold State.input
  rw [hport]
  split
  · exact hk (s.portValue port) { s with ioReads := s.ioReads + 1 }
  · rfl

theorem output_withRequests {port v : Byte} {k k' : State → Result}
    (hk : ∀ t : State, k' (t.withRequests requests) = mapNext (·.withRequests requests) (k t)) :
    (s.withRequests requests).output port v k' = mapNext (·.withRequests requests) (s.output port v k) := by
  have hport : (s.withRequests requests).canUsePort port = s.canUsePort port := rfl
  unfold State.output
  rw [hport]
  split
  · exact hk { s with ioOut := s.ioOut ++ [(port, v)] }
  · rfl

theorem readPlace_withRequests {p : Place} {k k' : Byte → Result}
    (hk : ∀ v, k' v = mapNext (·.withRequests requests) (k v)) :
    (s.withRequests requests).readPlace p k' = mapNext (·.withRequests requests) (s.readPlace p k) := by
  cases p with
  | reg r => exact hk _
  | mem m => simp only [State.readPlace, State.address_withRequests]; exact load_withRequests hk

theorem writePlace_withRequests {p : Place} {v : Byte} {k k' : State → Result}
    (hk : ∀ t : State, k' (t.withRequests requests) = mapNext (·.withRequests requests) (k t)) :
    (s.withRequests requests).writePlace p v k' = mapNext (·.withRequests requests) (s.writePlace p v k) := by
  cases p with
  | reg r => simp only [State.writePlace, State.setReg8_withRequests]; exact hk _
  | mem m => simp only [State.writePlace, State.address_withRequests]; exact store_withRequests hk

theorem readSource_withRequests {src : Source} {k k' : Byte → Result}
    (hk : ∀ v, k' v = mapNext (·.withRequests requests) (k v)) :
    (s.withRequests requests).readSource src k' = mapNext (·.withRequests requests) (s.readSource src k) := by
  cases src with
  | place p => exact readPlace_withRequests hk
  | imm n => exact hk n

/-! ## The shapes instructions share -/

theorem moveByte_withRequests {dst : Place} {src : Source} {len : Word} :
    moveByte dst src len (s.withRequests requests) = mapNext (·.withRequests requests) (moveByte dst src len s) :=
  readSource_withRequests fun _ => writePlace_withRequests fun _ => rfl

theorem combineA_withRequests {op : Byte → Byte → Flags → Byte × Flags} {src : Source} {len : Word} :
    combineA op src len (s.withRequests requests) = mapNext (·.withRequests requests) (combineA op src len s) :=
  readSource_withRequests fun _ => rfl

theorem modifyByte_withRequests {op : Byte → Flags → Byte × Flags} {p : Place} {len : Word} :
    modifyByte op p len (s.withRequests requests) = mapNext (·.withRequests requests) (modifyByte op p len s) :=
  readPlace_withRequests fun _ => writePlace_withRequests fun _ => rfl

theorem testBit_withRequests {b : BitIndex} {p : Place} {len : Word} :
    testBit b p len (s.withRequests requests) = mapNext (·.withRequests requests) (testBit b p len s) :=
  readPlace_withRequests fun _ => rfl

theorem assign16_withRequests {dst : Reg16} {w len : Word} :
    assign16 dst w len (s.withRequests requests) = mapNext (·.withRequests requests) (assign16 dst w len s) := by
  cases dst <;> rfl

theorem loadReg16_withRequests {dst : Reg16} {nn len : Word} :
    loadReg16 dst nn len (s.withRequests requests) = mapNext (·.withRequests requests) (loadReg16 dst nn len s) :=
  load16_withRequests fun _ => assign16_withRequests

theorem storeReg16_withRequests {src : Reg16} {nn len : Word} :
    storeReg16 nn src len (s.withRequests requests) = mapNext (·.withRequests requests) (storeReg16 nn src len s) :=
  store16_withRequests fun _ => rfl

theorem pushReg16_withRequests {src : Reg16} {len : Word} :
    pushReg16 src len (s.withRequests requests) = mapNext (·.withRequests requests) (pushReg16 src len s) :=
  push_withRequests fun _ => rfl

theorem popReg16_withRequests {dst : Reg16} {len : Word} :
    popReg16 dst len (s.withRequests requests) = mapNext (·.withRequests requests) (popReg16 dst len s) :=
  pop_withRequests fun _ _ => assign16_withRequests

theorem addReg16_withRequests {dst src : Reg16} {len : Word} :
    addReg16 dst src len (s.withRequests requests) = mapNext (·.withRequests requests) (addReg16 dst src len s) := by
  cases dst <;> rfl

theorem callTo_withRequests {target len : Word} :
    callTo target len (s.withRequests requests) = mapNext (·.withRequests requests) (callTo target len s) :=
  push_withRequests fun _ => rfl

theorem returnFromCall_withRequests :
    (s.withRequests requests).returnFromCall = mapNext (·.withRequests requests) s.returnFromCall :=
  pop_withRequests fun _ _ => rfl

theorem rotateDigits_withRequests {op : Byte → Byte → Byte × Byte} :
    rotateDigits op (s.withRequests requests) = mapNext (·.withRequests requests) (rotateDigits op s) :=
  readPlace_withRequests fun _ => writePlace_withRequests fun _ => rfl

theorem exSPHL_withRequests :
    execExSPHL (s.withRequests requests) = mapNext (·.withRequests requests) (execExSPHL s) :=
  load16_withRequests fun _ => store_withRequests fun _ => store_withRequests fun _ => assign16_withRequests

theorem pushPair_withRequests {qq : RegQQ} :
    execPushPair qq (s.withRequests requests) = mapNext (·.withRequests requests) (execPushPair qq s) := by
  cases qq with
  | bc | de | hl => exact push_withRequests fun _ => rfl
  | af => exact push_withRequests (s := s.qqDrawn .af) fun _ => rfl

theorem popPair_withRequests {qq : RegQQ} :
    execPopPair qq (s.withRequests requests) = mapNext (·.withRequests requests) (execPopPair qq s) :=
  pop_withRequests fun _ _ => by rw [State.writeQQ_withRequests]; rfl

/-- A conditional instruction ignores the requests if both its branches do. -/
theorem ite_withRequests {c : Prop} [Decidable c] {taken taken' other other' : Result}
    (htaken : taken' = mapNext (·.withRequests requests) taken)
    (hother : other' = mapNext (·.withRequests requests) other) :
    (if c then taken' else other') = mapNext (·.withRequests requests) (if c then taken else other) := by
  split
  · exact htaken
  · exact hother

/-! ## All instructions -/

/-- No instruction looks at the requests, and each leaves them as they are. -/
theorem exec_withRequests (i : Instr) :
    exec i (s.withRequests requests) = mapNext (·.withRequests requests) (exec i s) := by
  cases i with dsimp only [exec]
  | ldRegReg _ _ | ldRegImm _ _ | ldRegHL _ | ldRegIX _ _ | ldRegIY _ _ | ldHLReg _ | ldIXReg _ _ | ldIYReg _ _
  | ldHLImm _ | ldIXImm _ _ | ldIYImm _ _ | ldABC | ldADE | ldAMem _ | ldBCA | ldDEA | ldMemA _ =>
    exact moveByte_withRequests
  | ldPairImm _ _ | ldIXImm16 _ | ldIYImm16 _ | ldSPHL | ldSPIX | ldSPIY | incPair _ | incIX16 | incIY16
  | decPair _ | decIX16 | decIY16 => exact assign16_withRequests
  | ldHLMem _ | ldPairMem _ _ | ldIXMem _ | ldIYMem _ => exact loadReg16_withRequests
  | ldMemHL _ | ldMemPair _ _ | ldMemIX _ | ldMemIY _ => exact storeReg16_withRequests
  | exSPHL => exact exSPHL_withRequests
  | pushPair _ => exact pushPair_withRequests
  | popPair _ => exact popPair_withRequests
  | pushIX | pushIY => exact pushReg16_withRequests
  | popIX | popIY => exact popReg16_withRequests
  | addAReg _ | addAImm _ | addAHL | addAIX _ | addAIY _ | adcAReg _ | adcAImm _ | adcAHL | adcAIX _ | adcAIY _
  | subAReg _ | subAImm _ | subAHL | subAIX _ | subAIY _ | sbcAReg _ | sbcAImm _ | sbcAHL | sbcAIX _ | sbcAIY _
  | cpAReg _ | cpAImm _ | cpAHL | cpAIX _ | cpAIY _ | andAReg _ | andAImm _ | andAHL | andAIX _ | andAIY _
  | orAReg _ | orAImm _ | orAHL | orAIX _ | orAIY _ | xorAReg _ | xorAImm _ | xorAHL | xorAIX _ | xorAIY _ =>
    exact combineA_withRequests
  | incReg _ | incHL | incIX _ | incIY _ | decReg _ | decHL | decIX _ | decIY _ | rlcReg _ | rlcHL | rlcIX _
  | rlcIY _ | rlReg _ | rlHL | rlIX _ | rlIY _ | rrcReg _ | rrcHL | rrcIX _ | rrcIY _ | rrReg _ | rrHL | rrIX _
  | rrIY _ | slaReg _ | slaHL | slaIX _ | slaIY _ | sraReg _ | sraHL | sraIX _ | sraIY _ | srlReg _ | srlHL
  | srlIX _ | srlIY _ | setReg _ _ | setHL _ | setIX _ _ | setIY _ _ | resReg _ _ | resHL _ | resIX _ _
  | resIY _ _ => exact modifyByte_withRequests
  | addHLPair _ | addIXPair _ | addIYPair _ => exact addReg16_withRequests
  | call _ | rst _ => exact callTo_withRequests
  | ret => exact returnFromCall_withRequests
  | rld | rrd => exact rotateDigits_withRequests
  | bitReg _ _ | bitHL _ | bitIX _ _ | bitIY _ _ => exact testBit_withRequests
  | jpCond _ _ => exact ite_withRequests rfl rfl
  | callCond _ _ => exact ite_withRequests callTo_withRequests rfl
  | retCond _ => exact ite_withRequests returnFromCall_withRequests rfl
  | inAImm _ => exact input_withRequests fun _ _ => rfl
  | inRegC _ => exact input_withRequests fun _ _ => by rw [State.setReg8_withRequests]; rfl
  | outImmA _ | outCReg _ => exact output_withRequests fun _ => rfl
  | exDEHL | adcHLPair _ | sbcHLPair _ | daa | cpl | neg | rlca | rla | rrca | rra | ccf | scf | nop | halt | di | ei
  | jp _ | jpHL | jpIX | jpIY => rfl

/-! ## The fetch and the step -/

theorem fetchFrom_withRequests (fuel : Nat) : ∀ bytes : List Byte,
    (s.withRequests requests).fetchFrom bytes fuel = s.fetchFrom bytes fuel := by
  have haccess (a : Word) : (s.withRequests requests).canAccess a = s.canAccess a := rfl
  have hpeek (a : Word) : (s.withRequests requests).peek a = s.peek a := rfl
  have hpc : (s.withRequests requests).pc = s.pc := rfl
  have hmem : (s.withRequests requests).mem = s.mem := rfl
  induction fuel with
  | zero => intro bytes; simp only [State.fetchFrom, hpc]
  | succ fuel ih => intro bytes; simp only [State.fetchFrom, ih, haccess, hpeek, hpc, hmem]

end requests

/-- A request is masked by IFF = 0 and in the shadow of DI and EI (60_exceptions.md R404, R405). -/
theorem interruptAccepted_of_masked {s : State} (h : s.iff = false ∨ s.inhibit = true) :
    s.interruptAccepted = false := h.elim interruptAccepted_of_iff_off interruptAccepted_of_inhibit

/-- Settles O12: a masked request is not accepted, and past the boundary nothing looks at the requests. -/
theorem maskedRequestIsIgnored : Obligations.MaskedRequestIsIgnored := by
  intro s requests hmasked
  have haccepted : s.interruptAccepted = false := interruptAccepted_of_masked hmasked
  have haccepted' : (s.withRequests requests).interruptAccepted = false := interruptAccepted_of_masked hmasked
  have hreset : (s.withRequests requests).resetRequested = s.resetRequested := rfl
  have hhalted : (s.withRequests requests).halted = s.halted := rfl
  have htick : (s.withRequests requests).tick = s.tick.withRequests requests := rfl
  have hfetch : (s.tick.withRequests requests).fetchInstr = s.tick.fetchInstr := fetchFrom_withRequests maxLength []
  simp only [step, haccepted, haccepted', hreset, hhalted, htick, hfetch, Bool.false_eq_true, if_false]
  split
  · rfl
  split
  · rfl
  split
  · rfl
  · exact exec_withRequests _

end Sys2Proof.Machine
end
